-- ==== Sys2Proof/Word.lean ====
section
/-! DEFINITION. The widths of the block's values (00_scope.md R8, R9; 30_encoding.md R62). Every value is unsigned, and
bit 0 is the least significant bit. -/

namespace Sys2Proof

/-- A 32-bit value: `CRC_STATE`, a `CRC_T` entry, a command's argument, `rsp_data`. -/
abbrev Word := BitVec 32

/-- An 8-bit value: a data byte, an opcode, `U8_STATE`, an entry of the UTF-8 tables. -/
abbrev Byte := BitVec 8

/-- A 7-bit table index, the operand of format FMT_I. -/
abbrev Index := BitVec 7

/-- A whole 40-bit command word `W` (30_encoding.md R62). -/
abbrev CommandWord := BitVec 40

end Sys2Proof
end

