-- ==== Sys2Proof/Machine/Operands.lean ====
section
/-! DEFINITION. The operand forms: formats and their reserved bits (30_encoding.md R62), operand assembly (R63), the extra
legality checks (R64), the byte order of the word operand (20_memory.md R43), and the causes an illegal word reports
(60_exceptions.md R201). -/

namespace Sys2Proof.Machine

/-- The four formats of 30_encoding.md R62. They differ only in which argument bits carry an operand. -/
inductive Format where
  | fmtN
  | fmtB
  | fmtI
  | fmtW
  deriving DecidableEq, Repr

/-- The causes of `IllegalCommand` (60_exceptions.md R201). -/
inductive IllegalCause where
  /-- Cause 1, ILLEGAL_OPCODE: `W[39:32]` is unassigned. -/
  | illegalOpcode
  /-- Cause 2, ILLEGAL_RESERVED: a reserved argument bit is 1. -/
  | illegalReserved
  /-- Cause 3, ILLEGAL_RANGE: the operand of U8_LOAD or U8_TRANS is out of range. -/
  | illegalRange
  deriving DecidableEq, Repr

/-- The cause code, zero-extended to 32 bits as `rsp_data` carries it (60_exceptions.md R201). -/
def causeCode : IllegalCause → Word
  | .illegalOpcode => 1#32
  | .illegalReserved => 2#32
  | .illegalRange => 3#32

/-- `reserved_mask(format)` of 30_encoding.md R66. -/
def reservedMask : Format → Word
  | .fmtN => 0xFFFFFFFF#32
  | .fmtB => 0xFFFFFF00#32
  | .fmtI => 0xFFFFFF80#32
  | .fmtW => 0x00000000#32

/-- `byte = W[7:0]` (30_encoding.md R63). -/
def byteOperand (arg : Word) : Byte := arg.extractLsb' 0 8

/-- `idx = W[6:0]` (30_encoding.md R63). -/
def idxOperand (arg : Word) : Index := arg.extractLsb' 0 7

/-- `zext_32` (00_scope.md R11): every narrow value is zero-extended. -/
def zext32 {n : Nat} (v : BitVec n) : Word := v.setWidth 32

/-- Byte `k` of a word, `word[8k+7 : 8k]` (40_crc32c.md R112). -/
def wordByte (w : Word) (k : Nat) : Byte := w.extractLsb' (8 * k) 8

/-- `le32(x)`, the four bytes of a word in stream order, least significant first (00_scope.md R12, 20_memory.md R43). -/
def le32 (w : Word) : List Byte := [wordByte w 0, wordByte w 1, wordByte w 2, wordByte w 3]

/-- The code of the accepting state (10_state.md R22). -/
def acceptCode : Byte := 0#8

/-- The code of the absorbing error state (10_state.md R22). -/
def errorCode : Byte := 88#8

/-- The nine legal values of `U8_STATE`, in state-index order (10_state.md R22). -/
def stateCodes : List Byte := [0#8, 11#8, 22#8, 33#8, 44#8, 55#8, 66#8, 77#8, 88#8]

/-- Whether a byte is one of the nine state codes; the extra legality check of U8_LOAD (30_encoding.md R64). -/
def legalStateCode (b : Byte) : Bool := decide (b ∈ stateCodes)

/-- Whether an index lies in the stored rows of `U8_TRANS_T`; the extra legality check of U8_TRANS (30_encoding.md R64). -/
def transIndexInRange (i : Index) : Bool := decide (i.toNat ≤ 87)

end Sys2Proof.Machine
end

