-- ==== Sys2Proof/Syntax.lean ====
section
/-! DEFINITION. The commands, one constructor per row of spec/opcode_table.json (30_encoding.md R64). No command has a
register operand: each names its engine's one register implicitly (30_encoding.md R63). -/

namespace Sys2Proof

/-- The thirteen commands with their operands. -/
inductive Instr where
  /-- NOP (42_misc.md R180). -/
  | nop
  /-- CRC_SEED, `word` = the seed, a finalised value (40_crc32c.md R110). -/
  | crcSeed (word : Word)
  /-- CRC_FEED8, `byte` = the data byte (40_crc32c.md R111). -/
  | crcFeed8 (byte : Byte)
  /-- CRC_FEED32, `word` = four data bytes, least significant first (40_crc32c.md R112). -/
  | crcFeed32 (word : Word)
  /-- CRC_READ (40_crc32c.md R113). -/
  | crcRead
  /-- CRC_CHECK (40_crc32c.md R114). -/
  | crcCheck
  /-- CRC_TABLE, `byte` = the table index (40_crc32c.md R115). -/
  | crcTable (byte : Byte)
  /-- U8_CLEAR (41_utf8_dfa.md R151). -/
  | u8Clear
  /-- U8_LOAD, `byte` = a state code (41_utf8_dfa.md R152). -/
  | u8Load (byte : Byte)
  /-- U8_FEED8, `byte` = the data byte (41_utf8_dfa.md R153). -/
  | u8Feed8 (byte : Byte)
  /-- U8_STATUS (41_utf8_dfa.md R154). -/
  | u8Status
  /-- U8_CLASS, `idx` = byte - 0x80 (41_utf8_dfa.md R155). -/
  | u8Class (idx : Index)
  /-- U8_TRANS, `idx` = the table index, 0..87 (41_utf8_dfa.md R156). -/
  | u8Trans (idx : Index)
  deriving DecidableEq, Repr

end Sys2Proof
end

