-- ==== Sys2Proof/WellFormed.lean ====
section
/-! DEFINITION. When a command is one the encoding can spell legally. Operand widths are in the types of Instr; the two
checks that remain are the extra legality checks of 30_encoding.md R64. -/

namespace Sys2Proof

/-- The extra legality check of each command's row in 30_encoding.md R64. -/
def Instr.wellFormed : Instr → Bool
  | .nop => true
  | .crcSeed _ => true
  | .crcFeed8 _ => true
  | .crcFeed32 _ => true
  | .crcRead => true
  | .crcCheck => true
  | .crcTable _ => true
  | .u8Clear => true
  | .u8Load byte => Machine.legalStateCode byte
  | .u8Feed8 _ => true
  | .u8Status => true
  | .u8Class _ => true
  | .u8Trans idx => Machine.transIndexInRange idx

end Sys2Proof
end

