-- ==== Sys2Proof/Decode.lean ====
section
/-! DEFINITION. The decoder, total on all 2^40 words (30_encoding.md R64-R67), and the encoder written from the same table. -/

namespace Sys2Proof

open Sys2Proof.Machine

/-- `op = W[39:32]` (30_encoding.md R62). -/
def opcodeField (w : CommandWord) : Byte := w.extractLsb' 32 8

/-- `arg = W[31:0]` (30_encoding.md R62). -/
def argField (w : CommandWord) : Word := w.extractLsb' 0 32

/-- One row of the opcode map of 30_encoding.md R64. -/
structure OpcodeRow where
  /-- the opcode -/
  op : Byte
  /-- the format, which says which argument bits are reserved -/
  format : Format
  /-- the extra legality check, on the argument -/
  legal : Word → Bool
  /-- the command, from the argument -/
  build : Word → Instr

/-- The opcode map of 30_encoding.md R64, row by row. -/
def opcodeTable : List OpcodeRow :=
  [ ⟨0x00#8, .fmtN, fun _ => true, fun _ => .nop⟩,
    ⟨0x10#8, .fmtW, fun _ => true, fun arg => .crcSeed arg⟩,
    ⟨0x11#8, .fmtB, fun _ => true, fun arg => .crcFeed8 (byteOperand arg)⟩,
    ⟨0x12#8, .fmtW, fun _ => true, fun arg => .crcFeed32 arg⟩,
    ⟨0x13#8, .fmtN, fun _ => true, fun _ => .crcRead⟩,
    ⟨0x14#8, .fmtN, fun _ => true, fun _ => .crcCheck⟩,
    ⟨0x15#8, .fmtB, fun _ => true, fun arg => .crcTable (byteOperand arg)⟩,
    ⟨0x20#8, .fmtN, fun _ => true, fun _ => .u8Clear⟩,
    ⟨0x21#8, .fmtB, fun arg => legalStateCode (byteOperand arg), fun arg => .u8Load (byteOperand arg)⟩,
    ⟨0x22#8, .fmtB, fun _ => true, fun arg => .u8Feed8 (byteOperand arg)⟩,
    ⟨0x23#8, .fmtN, fun _ => true, fun _ => .u8Status⟩,
    ⟨0x24#8, .fmtI, fun _ => true, fun arg => .u8Class (idxOperand arg)⟩,
    ⟨0x25#8, .fmtI, fun arg => transIndexInRange (idxOperand arg), fun arg => .u8Trans (idxOperand arg)⟩ ]

/-- The row of an opcode, if the opcode is assigned. -/
def rowOf (op : Byte) : Option OpcodeRow := opcodeTable.find? (fun row => row.op == op)

/-- `decode(W)` of 30_encoding.md R66: the checks run in the order opcode, reserved bits, range, and the first that fails
gives the cause (60_exceptions.md R202). -/
def decode (w : CommandWord) : Except IllegalCause Instr :=
  match rowOf (opcodeField w) with
  | none => .error .illegalOpcode
  | some row =>
    if argField w &&& reservedMask row.format = 0#32 then
      if row.legal (argField w) then .ok (row.build (argField w)) else .error .illegalRange
    else .error .illegalReserved

/-- The opcode of a command (30_encoding.md R64). -/
def opcodeOf : Instr → Byte
  | .nop => 0x00#8
  | .crcSeed _ => 0x10#8
  | .crcFeed8 _ => 0x11#8
  | .crcFeed32 _ => 0x12#8
  | .crcRead => 0x13#8
  | .crcCheck => 0x14#8
  | .crcTable _ => 0x15#8
  | .u8Clear => 0x20#8
  | .u8Load _ => 0x21#8
  | .u8Feed8 _ => 0x22#8
  | .u8Status => 0x23#8
  | .u8Class _ => 0x24#8
  | .u8Trans _ => 0x25#8

/-- The format of a command (30_encoding.md R64). -/
def formatOf : Instr → Format
  | .nop => .fmtN
  | .crcSeed _ => .fmtW
  | .crcFeed8 _ => .fmtB
  | .crcFeed32 _ => .fmtW
  | .crcRead => .fmtN
  | .crcCheck => .fmtN
  | .crcTable _ => .fmtB
  | .u8Clear => .fmtN
  | .u8Load _ => .fmtB
  | .u8Feed8 _ => .fmtB
  | .u8Status => .fmtN
  | .u8Class _ => .fmtI
  | .u8Trans _ => .fmtI

/-- The argument of a command: its operand, zero-extended (30_encoding.md R62, R63). -/
def argOf : Instr → Word
  | .nop => 0#32
  | .crcSeed word => word
  | .crcFeed8 byte => zext32 byte
  | .crcFeed32 word => word
  | .crcRead => 0#32
  | .crcCheck => 0#32
  | .crcTable byte => zext32 byte
  | .u8Clear => 0#32
  | .u8Load byte => zext32 byte
  | .u8Feed8 byte => zext32 byte
  | .u8Status => 0#32
  | .u8Class idx => zext32 idx
  | .u8Trans idx => zext32 idx

/-- A command word from its two fields: opcode in the high 8 bits, argument in the low 32 (30_encoding.md R62). -/
def commandWord (op : Byte) (arg : Word) : CommandWord := op ++ arg

/-- The command word of a command (30_encoding.md R62-R64). -/
def encode (i : Instr) : CommandWord := commandWord (opcodeOf i) (argOf i)

/-- The command word that the host's numbering gives: the low `nbits` bits of `w`, every bit above them 0. The table
numbers the whole 40-bit word with bit 0 least significant, as 30_encoding.md R62 does (log entry 11). -/
def tableCommandWord (nbits w : Nat) : CommandWord := BitVec.ofNat 40 (w % 2 ^ nbits)

/-- The command this decoder reads from an opcode-table word; none where the word is illegal. -/
def decodeTableWord (nbits w : Nat) : Option Instr :=
  match decode (tableCommandWord nbits w) with
  | .ok i => some i
  | .error _ => none

end Sys2Proof
end

