-- ==== Sys2Proof/Machine/Flags.lean ====
section
/-! DEFINITION. The status values, each computed afresh for one response and never stored (10_state.md R25): the finalised
checksum, the result of CRC_CHECK, VALID, PREFIX_OK and the UE status word. -/

namespace Sys2Proof.Machine

/-- The finalised checksum: the complement of the in-progress register, the only form the host sees (10_state.md R21). -/
def finalised (crc : Word) : Word := ~~~crc

/-- The result of CRC_CHECK: 1 when the finalised value is `CRC_OK_REM`, else 0 (40_crc32c.md R114). -/
def checkWord (crc : Word) : Word := if finalised crc = crcOkRem then 1#32 else 0#32

/-- VALID, strict validation: the state is accept (10_state.md R25). -/
def validFlag (code : Byte) : Bool := decide (code = acceptCode)

/-- PREFIX_OK, prefix validation: the state is not error (10_state.md R25). -/
def prefixOkFlag (code : Byte) : Bool := decide (code ≠ errorCode)

/-- The UE status word: bit 0 VALID, bit 1 PREFIX_OK, bits 15:8 STATE, every other bit 0 (41_utf8_dfa.md R150). -/
def statusWord (code : Byte) : Word :=
  (zext32 code <<< 8) ||| (if prefixOkFlag code then 2#32 else 0#32) ||| (if validFlag code then 1#32 else 0#32)

end Sys2Proof.Machine
end

