-- ==== Sys2Proof/Machine/State.lean ====
section
/-! DEFINITION. The state of the block and of the host's side of its port, as plain data, the reasons a step can stop, and
the state right after reset (10_state.md R20-R30, 30_encoding.md R60-R61, 70_reset_and_hazards.md R220-R228). The tables
are constants, not state (10_state.md R26), and stand in Machine/Tables.lean. -/

namespace Sys2Proof.Machine

/-- Whether the block has been reset yet. Before the first reset the registers hold no defined value and no command may
run (10_state.md R28, 70_reset_and_hazards.md R221). -/
inductive Phase where
  | beforeReset
  | ready
  deriving DecidableEq, Repr

/-- One response of the block (30_encoding.md R61). -/
structure Response where
  /-- `rsp_ok`: the command was legal and executed -/
  ok : Bool
  /-- `rsp_data`: the command's result, or the cause code of an illegal command -/
  data : Word
  deriving DecidableEq, Repr

/-- What the host can do (70_reset_and_hazards.md R227): assert reset, or issue one command word. It has no other move. -/
inductive HostAction where
  | reset
  | command (w : CommandWord)
  deriving DecidableEq, Repr

/-- The whole state. -/
structure State where
  /-- `CRC_STATE`, CE's one register: the in-progress CRC (10_state.md R21) -/
  crcState : Word
  /-- `U8_STATE`, UE's one register: the premultiplied DFA state (10_state.md R22) -/
  u8State : Byte
  /-- before or after the first reset (10_state.md R28) -/
  phase : Phase
  /-- the host's actions still to come, next one first (10_state.md R24; log entry 2) -/
  host : List HostAction
  /-- the responses the host has received, oldest first (70_reset_and_hazards.md R228; log entry 3) -/
  responses : List Response
  deriving DecidableEq, Repr

/-- Why a step can stop with a fault. `IllegalCommand` is not here: the block answers it and goes on
(60_exceptions.md R201). -/
inductive Fault where
  /-- A command was issued before the first reset: a host fault with no result (70_reset_and_hazards.md R221). Raised by
  every command, legal or not. Safe: the model stops where the hardware's behaviour is unspecified. -/
  | commandBeforeReset
  /-- MemRead of `U8_TRANS_T` at an index outside 0..87, where it is not defined (20_memory.md R41). Raised by U8_FEED8
  only, from a `U8_STATE` that is no legal code, which no run after reset reaches (10_state.md R23). Safe. -/
  | tableIndexUndefined
  deriving DecidableEq, Repr

/-- Why a step can be refused. Every command of the opcode table has its meaning, so nothing raises it. -/
inductive Refusal where
  /-- The command has no meaning in the model yet. Raised by no arm of exec. Safe. -/
  | notModelled (mnemonic : String)
  deriving DecidableEq, Repr

/-- The block right after reset, waiting for the host's next command (10_state.md R30, 70_reset_and_hazards.md R220).
No host action is pending and no response has been given (log entries 2 and 3). -/
def State.reset : State :=
  { crcState := 0xFFFFFFFF#32, u8State := 0#8, phase := .ready, host := [], responses := [] }

end Sys2Proof.Machine
end

