-- ==== Sys2Proof/Machine/Ops.lean ====
section
/-! DEFINITION. The shared operations: responding, reset, the one exception (60_exceptions.md R200-R206) and the commands of
each engine over its own register. There is no return from the exception to model: nothing was entered, and the next
command is handled as if the illegal one had not been issued (60_exceptions.md R206). -/

namespace Sys2Proof.Machine

/-- What one step answers. -/
abbrev Result := Host.Outcome State Fault Refusal

/-- `respond(ok, data)`: deliver the one response of the current command (00_scope.md R11, 30_encoding.md R61). -/
def State.respond (ok : Bool) (data : Word) (s : State) : State :=
  { s with responses := s.responses ++ [⟨ok, data⟩] }

/-- `CRC_STATE <- v` (00_scope.md R11). -/
def State.writeCrc (v : Word) (s : State) : State := { s with crcState := v }

/-- `U8_STATE <- v` (00_scope.md R11). -/
def State.writeU8 (v : Byte) (s : State) : State := { s with u8State := v }

/-- The reset signal: it writes the values of 10_state.md R30 and gives no response (70_reset_and_hazards.md R220). -/
def State.applyReset (s : State) : State :=
  { s with crcState := 0xFFFFFFFF#32, u8State := 0#8, phase := .ready }

/-- The block before its first reset. Its register contents are any values at all, which nothing can observe
(10_state.md R28, 93_implementation_defined.md U1). -/
def State.powerOn (crc : Word) (code : Byte) (host : List HostAction) : State :=
  { crcState := crc, u8State := code, phase := .beforeReset, host := host, responses := [] }

/-- A command runs only after the first reset; before it the host is at fault and gets no result
(70_reset_and_hazards.md R221). -/
def onceReset (s : State) (answer : Result) : Result :=
  match s.phase with
  | .ready => answer
  | .beforeReset => .fault .commandBeforeReset

/-- `raise IllegalCommand(cause)`: no register changes, no table is read, and the response is `(0, cause)`
(60_exceptions.md R201). -/
def raiseIllegal (cause : IllegalCause) (s : State) : Result :=
  onceReset s (.next (s.respond false (causeCode cause)))

/-- A CE command that writes `CRC_STATE` from its old value and responds with the finalised new value
(40_crc32c.md R110-R112). -/
def ceUpdate (f : Word → Word) (s : State) : Result :=
  onceReset s (.next ((s.writeCrc (f s.crcState)).respond true (finalised (f s.crcState))))

/-- A CE command that only answers, from `CRC_STATE` (40_crc32c.md R113-R115). -/
def ceAnswer (g : Word → Word) (s : State) : Result :=
  onceReset s (.next (s.respond true (g s.crcState)))

/-- A UE command that writes `U8_STATE` from its old value and responds with the new status word
(41_utf8_dfa.md R151-R153). `none` means a table read outside its valid indices, where MemRead is not defined
(20_memory.md R41). -/
def ueUpdate (f : Byte → Option Byte) (s : State) : Result :=
  onceReset s
    (match f s.u8State with
     | some code => .next ((s.writeU8 code).respond true (statusWord code))
     | none => .fault .tableIndexUndefined)

/-- A UE command that only answers, from `U8_STATE` (41_utf8_dfa.md R154-R156). -/
def ueAnswer (g : Byte → Word) (s : State) : Result :=
  onceReset s (.next (s.respond true (g s.u8State)))

end Sys2Proof.Machine
end

