-- ==== Sys2Proof/Machine/Crc.lean ====
section
/-! DEFINITION. The CRC-32C engine: its byte step and its six commands (40_crc32c.md R104, R110-R115). -/

namespace Sys2Proof.Machine

/-- `crc_step(s, b)`, the raw byte step on an in-progress value (40_crc32c.md R104). -/
def crcStep (crc : Word) (b : Byte) : Word := (crc >>> 8) ^^^ crcT (byteOperand crc ^^^ b)

/-- `crc_steps(s, d)`, the byte step over a byte sequence in order (40_crc32c.md R104). -/
def crcSteps (crc : Word) : List Byte → Word
  | [] => crc
  | b :: d => crcSteps (crcStep crc b) d

/-- CRC_SEED (40_crc32c.md R110): `CRC_STATE <- NOT word`. -/
def execCrcSeed (word : Word) (s : State) : Result := ceUpdate (fun _ => ~~~word) s

/-- CRC_FEED8 (40_crc32c.md R111): consume one byte. -/
def execCrcFeed8 (byte : Byte) (s : State) : Result := ceUpdate (fun crc => crcStep crc byte) s

/-- CRC_FEED32 (40_crc32c.md R112): consume four bytes, least significant first, in one atomic command. -/
def execCrcFeed32 (word : Word) (s : State) : Result := ceUpdate (fun crc => crcSteps crc (le32 word)) s

/-- CRC_READ (40_crc32c.md R113): answer the finalised checksum. -/
def execCrcRead (s : State) : Result := ceAnswer finalised s

/-- CRC_CHECK (40_crc32c.md R114): compare the finalised checksum with `CRC_OK_REM`. -/
def execCrcCheck (s : State) : Result := ceAnswer checkWord s

/-- CRC_TABLE (40_crc32c.md R115): answer one entry of `CRC_T`. -/
def execCrcTable (byte : Byte) (s : State) : Result := ceAnswer (fun _ => crcT byte) s

end Sys2Proof.Machine
end

