-- ==== Sys2Proof/Machine/Misc.lean ====
section
/-! DEFINITION. NOP, the one command addressed to neither engine (42_misc.md R180). -/

namespace Sys2Proof.Machine

/-- NOP (42_misc.md R180): answer 0 and change no register. -/
def execNop (s : State) : Result := onceReset s (.next (s.respond true 0#32))

end Sys2Proof.Machine
end

