-- ==== Sys2Proof/Machine/Utf8.lean ====
section
/-! DEFINITION. The UTF-8 validation engine: its byte step and its six commands (41_utf8_dfa.md R147, R151-R156). -/

namespace Sys2Proof.Machine

/-- The class of a byte at or above 0x80, `U8_CLASS_T[b - 0x80]` (41_utf8_dfa.md R142). -/
def u8ClassOf (b : Byte) : Byte := u8ClassT ((b - 0x80#8).setWidth 7)

/-- `u8_step(s, b)` (41_utf8_dfa.md R147): error is absorbing and reads nothing; a byte below 0x80 takes the ASCII path and
is legal only in accept; any other byte reads its class and then `U8_TRANS_T[s + class]`. `none` where that index is not
valid, which happens for no legal code. -/
def u8Step (code : Byte) (b : Byte) : Option Byte :=
  if code = errorCode then some errorCode
  else if b < 0x80#8 then some (if code = acceptCode then acceptCode else errorCode)
  else u8TransT (code.toNat + (u8ClassOf b).toNat)

/-- `u8_steps(s, d)`, the byte step over a byte sequence in order (41_utf8_dfa.md R147). -/
def u8Steps (code : Byte) : List Byte → Option Byte
  | [] => some code
  | b :: d =>
    match u8Step code b with
    | some next => u8Steps next d
    | none => none

/-- U8_CLEAR (41_utf8_dfa.md R151): start a new stream. -/
def execU8Clear (s : State) : Result := ueUpdate (fun _ => some acceptCode) s

/-- U8_LOAD (41_utf8_dfa.md R152): restore a saved state. Decode has checked the code; an operand that is no code is
IllegalCommand(3) (log entry 7). -/
def execU8Load (byte : Byte) (s : State) : Result :=
  if legalStateCode byte then ueUpdate (fun _ => some byte) s else raiseIllegal .illegalRange s

/-- U8_FEED8 (41_utf8_dfa.md R153): consume one byte. -/
def execU8Feed8 (byte : Byte) (s : State) : Result := ueUpdate (fun code => u8Step code byte) s

/-- U8_STATUS (41_utf8_dfa.md R154): answer the status word. -/
def execU8Status (s : State) : Result := ueAnswer statusWord s

/-- U8_CLASS (41_utf8_dfa.md R155): answer one entry of `U8_CLASS_T`. -/
def execU8Class (idx : Index) (s : State) : Result := ueAnswer (fun _ => zext32 (u8ClassT idx)) s

/-- U8_TRANS (41_utf8_dfa.md R156): answer one entry of `U8_TRANS_T`. Decode has checked the index; an index in the row that
is not stored is IllegalCommand(3) and never reaches MemRead (20_memory.md R41; log entry 7). -/
def execU8Trans (idx : Index) (s : State) : Result :=
  match u8TransT idx.toNat with
  | some entry => ueAnswer (fun _ => zext32 entry) s
  | none => raiseIllegal .illegalRange s

end Sys2Proof.Machine
end

