-- ==== Sys2Proof/Machine/Dispatch.lean ====
section
/-! DEFINITION. One arm per command, each one call of its meaning. -/

namespace Sys2Proof.Machine

def exec (i : Instr) (s : State) : Host.Outcome State Fault Refusal :=
  match i with
  | .nop => Sys2Proof.Machine.execNop s
  -- CE
  | .crcSeed word => Sys2Proof.Machine.execCrcSeed word s
  | .crcFeed8 byte => Sys2Proof.Machine.execCrcFeed8 byte s
  | .crcFeed32 word => Sys2Proof.Machine.execCrcFeed32 word s
  | .crcRead => Sys2Proof.Machine.execCrcRead s
  | .crcCheck => Sys2Proof.Machine.execCrcCheck s
  | .crcTable byte => Sys2Proof.Machine.execCrcTable byte s
  -- UE
  | .u8Clear => Sys2Proof.Machine.execU8Clear s
  | .u8Load byte => Sys2Proof.Machine.execU8Load byte s
  | .u8Feed8 byte => Sys2Proof.Machine.execU8Feed8 byte s
  | .u8Status => Sys2Proof.Machine.execU8Status s
  | .u8Class idx => Sys2Proof.Machine.execU8Class idx s
  | .u8Trans idx => Sys2Proof.Machine.execU8Trans idx s

end Sys2Proof.Machine
end

