-- ==== Sys2Proof/Machine/Port.lean ====
section
/-! DEFINITION. The command port: what the host does next, and how a command is placed to be the next one issued
(30_encoding.md R60, 70_reset_and_hazards.md R220, R227). -/

namespace Sys2Proof.Machine

/-- What the block finds at its port, with the state in which the host has made that move. -/
inductive PortEvent where
  /-- the host has nothing to do: the block waits -/
  | waiting (s : State)
  /-- the reset signal -/
  | reset (s : State)
  /-- one command word -/
  | command (w : CommandWord) (s : State)
  deriving DecidableEq, Repr

/-- The host's step (10_state.md R20): it makes the next of its moves, if it has one. -/
def hostStep (s : State) : PortEvent :=
  match s.host with
  | [] => .waiting s
  | .reset :: rest => .reset { s with host := rest }
  | .command w :: rest => .command w { s with host := rest }

/-- With no move of the host the block waits for its next command (70_reset_and_hazards.md R220; log entry 4). -/
def waitAtPort (s : State) : Result := .next s

/-- The reset signal reaches the block between two commands (70_reset_and_hazards.md R220). -/
def takeReset (s : State) : Result := .next s.applyReset

/-- The host issues `w` next, before everything else it was going to do. -/
def State.issueWord (s : State) (w : CommandWord) : State := { s with host := .command w :: s.host }

end Sys2Proof.Machine
end

