-- ==== Sys2Proof/Machine/Step.lean ====
section
/-! DEFINITION. One step: the host makes its next move and the block handles it completely, response included
(20_memory.md R47, R49; log entry 1). -/

namespace Sys2Proof.Machine

/-- One step: wait, take the reset signal, run the command that the word decodes to, or answer an illegal word
(30_encoding.md R66, 60_exceptions.md R201). -/
def step (s : State) : Host.Outcome State Fault Refusal :=
  match hostStep s with
  | .waiting t => waitAtPort t
  | .reset t => takeReset t
  | .command w t =>
    match decode w with
    | .ok i => exec i t
    | .error cause => raiseIllegal cause t

/-- The host issues the opcode-table word `w` as its next command; nothing else changes. The next step then takes exactly
this word. From a state before the first reset that step is the host fault of 70_reset_and_hazards.md R221, as for every
command there (log entry 9). -/
def State.withFetchWord (s : State) (nbits w : Nat) : State := s.issueWord (tableCommandWord nbits w)

end Sys2Proof.Machine
end

