-- ==== Sys2Proof/Machine/Library.lean ====
section
/-! DEFINITION. Command sequences: the pseudo-commands (30_encoding.md R69), the library calls of the source as command
sequences (R70), which engine a command is addressed to (R64), and running a sequence. -/

namespace Sys2Proof.Machine

/-- The two engines (00_scope.md R1). -/
inductive Engine where
  | ce
  | ue
  deriving DecidableEq, Repr

/-- The engine column of 30_encoding.md R64; NOP is addressed to neither. -/
def engineOf : Instr → Option Engine
  | .nop => none
  | .crcSeed _ => some .ce
  | .crcFeed8 _ => some .ce
  | .crcFeed32 _ => some .ce
  | .crcRead => some .ce
  | .crcCheck => some .ce
  | .crcTable _ => some .ce
  | .u8Clear => some .ue
  | .u8Load _ => some .ue
  | .u8Feed8 _ => some .ue
  | .u8Status => some .ue
  | .u8Class _ => some .ue
  | .u8Trans _ => some .ue

/-- The read commands, which change nothing but the response (20_memory.md R47). -/
def isReadCommand : Instr → Bool
  | .nop => true
  | .crcSeed _ => false
  | .crcFeed8 _ => false
  | .crcFeed32 _ => false
  | .crcRead => true
  | .crcCheck => true
  | .crcTable _ => true
  | .u8Clear => false
  | .u8Load _ => false
  | .u8Feed8 _ => false
  | .u8Status => true
  | .u8Class _ => true
  | .u8Trans _ => true

/-- Execute commands one after another, each from the state the one before it left (20_memory.md R49). -/
def execAll : List Instr → State → Result
  | [], s => .next s
  | i :: rest, s =>
    match exec i s with
    | .next t => execAll rest t
    | .fault r => .fault r
    | .refused r => .refused r

/-- `n` steps of the machine, stopping at the first fault or refusal. -/
def runSteps : Nat → State → Result
  | 0, s => .next s
  | n + 1, s =>
    match step s with
    | .next t => runSteps n t
    | .fault r => .fault r
    | .refused r => .refused r

/-- The observation of a run: a block with any contents at power-on, a reset, then the given command words; the responses
and the final two registers (70_reset_and_hazards.md R228). -/
def observeRun (crc : Word) (code : Byte) (words : List CommandWord) : Option (List Response × Word × Byte) :=
  match runSteps (words.length + 1) (State.powerOn crc code (.reset :: words.map HostAction.command)) with
  | .next t => some (t.responses, t.crcState, t.u8State)
  | .fault _ => none
  | .refused _ => none

/-- The bytes a command feeds to CE, in order (40_crc32c.md R111, R112). -/
def crcFed : Instr → List Byte
  | .nop => []
  | .crcSeed _ => []
  | .crcFeed8 byte => [byte]
  | .crcFeed32 word => le32 word
  | .crcRead => []
  | .crcCheck => []
  | .crcTable _ => []
  | .u8Clear => []
  | .u8Load _ => []
  | .u8Feed8 _ => []
  | .u8Status => []
  | .u8Class _ => []
  | .u8Trans _ => []

/-- Whether a command starts a new CE message (40_crc32c.md R110). -/
def startsCrcMessage : Instr → Bool
  | .nop => false
  | .crcSeed _ => true
  | .crcFeed8 _ => false
  | .crcFeed32 _ => false
  | .crcRead => false
  | .crcCheck => false
  | .crcTable _ => false
  | .u8Clear => false
  | .u8Load _ => false
  | .u8Feed8 _ => false
  | .u8Status => false
  | .u8Class _ => false
  | .u8Trans _ => false

/-- The bytes a command feeds to UE (41_utf8_dfa.md R153). -/
def u8Fed : Instr → List Byte
  | .nop => []
  | .crcSeed _ => []
  | .crcFeed8 _ => []
  | .crcFeed32 _ => []
  | .crcRead => []
  | .crcCheck => []
  | .crcTable _ => []
  | .u8Clear => []
  | .u8Load _ => []
  | .u8Feed8 byte => [byte]
  | .u8Status => []
  | .u8Class _ => []
  | .u8Trans _ => []

/-- Whether a command starts or restores a UE stream (41_utf8_dfa.md R151, R152). -/
def startsU8Stream : Instr → Bool
  | .nop => false
  | .crcSeed _ => false
  | .crcFeed8 _ => false
  | .crcFeed32 _ => false
  | .crcRead => false
  | .crcCheck => false
  | .crcTable _ => false
  | .u8Clear => true
  | .u8Load _ => true
  | .u8Feed8 _ => false
  | .u8Status => false
  | .u8Class _ => false
  | .u8Trans _ => false

/-- The host issues a sequence of commands, then whatever it was going to do (10_state.md R24). -/
def State.issue (s : State) (commands : List Instr) : State :=
  { s with host := commands.map (fun i => HostAction.command (encode i)) ++ s.host }

/-- `CRC_FEEDN` (30_encoding.md R69). -/
def crcFeedN (d : List Byte) : List Instr := d.map Instr.crcFeed8

/-- `CRC_RESTART` (30_encoding.md R69). -/
def crcRestart : List Instr := [.crcSeed 0x00000000#32]

/-- `CRC_APPEND`, where `r` is what its CRC_READ returned and the host supplies it (30_encoding.md R69). -/
def crcAppend (r : Word) : List Instr := [.crcRead, .crcFeed32 r]

/-- `U8_FEEDN` (30_encoding.md R69). -/
def u8FeedN (d : List Byte) : List Instr := d.map Instr.u8Feed8

/-- `U8_VALIDATE`, also the sequence for `is_valid_utf8` and `is_valid_utf8_prefix` (30_encoding.md R69, R70). -/
def u8Validate (d : List Byte) : List Instr := .u8Clear :: (u8FeedN d ++ [.u8Status])

/-- The sequence for `crc32c_update(seed, data)` (30_encoding.md R70). -/
def crc32cUpdateCommands (seed : Word) (d : List Byte) : List Instr := .crcSeed seed :: (crcFeedN d ++ [.crcRead])

/-- The sequence for `build_crc32c_table()` (30_encoding.md R70). -/
def crcTableCommands : List Instr := (List.range 256).map (fun i => .crcTable (BitVec.ofNat 8 i))

/-- The sequence for `build_utf8_class_table()` (30_encoding.md R70). -/
def u8ClassTableCommands : List Instr := (List.range 128).map (fun i => .u8Class (BitVec.ofNat 7 i))

/-- The sequence for `build_utf8_transition_table()` (30_encoding.md R70). -/
def u8TransTableCommands : List Instr := (List.range 88).map (fun k => .u8Trans (BitVec.ofNat 7 k))

end Sys2Proof.Machine
end

