-- ==== Sys2Proof/Machine/Assembler.lean ====
section
/-! DEFINITION. The assembler of 30_encoding.md R68 and R69: one line of text to the commands it stands for. It is the
host's tool; the machine does not use it. What R68 does not say of spacing is in log entry 13. -/

namespace Sys2Proof.Machine

/-- A space or a tab. -/
def isBlank (c : Char) : Bool := c == ' ' || c == '\t'

/-- A line without the blanks around it. -/
def trimBlanks (line : List Char) : List Char :=
  (((line.dropWhile isBlank).reverse).dropWhile isBlank).reverse

/-- A line up to its comment: a semicolon starts a comment that runs to the end of the line (30_encoding.md R68), except
inside a quoted string. -/
def stripComment (quoted : Bool) : List Char → List Char
  | [] => []
  | c :: rest =>
    if c == ';' && !quoted then []
    else c :: stripComment (if c == '"' then !quoted else quoted) rest

/-- The value of a digit in base 10 or 16. -/
def digitValue (base : Nat) (c : Char) : Option Nat :=
  let n := c.toNat
  let v := if 48 ≤ n ∧ n ≤ 57 then n - 48 else if 65 ≤ n ∧ n ≤ 70 then n - 55 else if 97 ≤ n ∧ n ≤ 102 then n - 87 else 99
  if v < base then some v else none

/-- Digits after those already read. -/
def parseDigits (base acc : Nat) : List Char → Option Nat
  | [] => some acc
  | c :: rest =>
    match digitValue base c with
    | some v => parseDigits base (acc * base + v) rest
    | none => none

/-- A number: decimal, or hexadecimal after `0x` (30_encoding.md R68). -/
def parseNumber : List Char → Option Nat
  | [] => none
  | '0' :: 'x' :: digits => if digits.isEmpty then none else parseDigits 16 0 digits
  | digits => parseDigits 10 0 digits

/-- One mnemonic: its operand's width in bits, 0 for FMT_N, and its command. -/
structure MnemonicRow where
  name : String
  bits : Nat
  build : Nat → Instr

/-- The mnemonics of spec/opcode_table.json. -/
def mnemonicTable : List MnemonicRow :=
  [ ⟨"NOP", 0, fun _ => .nop⟩,
    ⟨"CRC_SEED", 32, fun n => .crcSeed (BitVec.ofNat 32 n)⟩,
    ⟨"CRC_FEED8", 8, fun n => .crcFeed8 (BitVec.ofNat 8 n)⟩,
    ⟨"CRC_FEED32", 32, fun n => .crcFeed32 (BitVec.ofNat 32 n)⟩,
    ⟨"CRC_READ", 0, fun _ => .crcRead⟩,
    ⟨"CRC_CHECK", 0, fun _ => .crcCheck⟩,
    ⟨"CRC_TABLE", 8, fun n => .crcTable (BitVec.ofNat 8 n)⟩,
    ⟨"U8_CLEAR", 0, fun _ => .u8Clear⟩,
    ⟨"U8_LOAD", 8, fun n => .u8Load (BitVec.ofNat 8 n)⟩,
    ⟨"U8_FEED8", 8, fun n => .u8Feed8 (BitVec.ofNat 8 n)⟩,
    ⟨"U8_STATUS", 0, fun _ => .u8Status⟩,
    ⟨"U8_CLASS", 7, fun n => .u8Class (BitVec.ofNat 7 n)⟩,
    ⟨"U8_TRANS", 7, fun n => .u8Trans (BitVec.ofNat 7 n)⟩ ]

/-- A plain command line. The operand must fit its field, or the line is rejected; it is never cut to fit
(30_encoding.md R68). -/
def assembleCommand (name operand : List Char) : Option Instr :=
  match mnemonicTable.find? (fun row => row.name.toList == name) with
  | none => none
  | some row =>
    if row.bits = 0 then (if operand.isEmpty then some (row.build 0) else none)
    else
      match parseNumber operand with
      | some n => if n < 2 ^ row.bits then some (row.build n) else none
      | none => none

/-- The text split at each comma. -/
def splitCommas : List Char → List (List Char)
  | [] => [[]]
  | c :: rest =>
    if c == ',' then [] :: splitCommas rest
    else
      match splitCommas rest with
      | [] => [[c]]
      | piece :: pieces => (c :: piece) :: pieces

/-- All of a list's values, if every one is there. -/
def allSome : List (Option Byte) → Option (List Byte)
  | [] => some []
  | some b :: rest => (allSome rest).map (fun bs => b :: bs)
  | none :: _ => none

/-- A number that fits a byte. -/
def parseByte (text : List Char) : Option Byte :=
  match parseNumber (trimBlanks text) with
  | some n => if n < 256 then some (BitVec.ofNat 8 n) else none
  | none => none

/-- The bytes of an ASCII string up to its closing quote, which ends the operand (00_scope.md R12). -/
def parseQuoted : List Char → Option (List Byte)
  | [] => none
  | c :: rest =>
    if c == '"' then (if rest.isEmpty then some [] else none)
    else if c.toNat < 128 then (parseQuoted rest).map (fun bs => BitVec.ofNat 8 c.toNat :: bs)
    else none

/-- The operand of a pseudo-command: bytes separated by commas, or a quoted string. 30_encoding.md R69 gives the quoted form
for CRC_FEEDN and U8_FEEDN; that it may be empty, holds ASCII characters only and knows no escapes is DESIGN CHOICE
(log entry 13). -/
def parseBytes (operand : List Char) : Option (List Byte) :=
  match operand with
  | '"' :: rest => parseQuoted rest
  | text => allSome ((splitCommas text).map parseByte)

/-- A pseudo-command line and its expansion (30_encoding.md R69). That U8_VALIDATE takes a quoted string too is DESIGN
CHOICE: R69 gives the quoted form for CRC_FEEDN and U8_FEEDN only (log entry 13). `CRC_APPEND` is a host idiom and no fixed text: its
second word depends on a response (see `crcAppend`). -/
def assemblePseudo (name operand : List Char) : Option (List Instr) :=
  if name == "CRC_FEEDN".toList then (parseBytes operand).map crcFeedN
  else if name == "CRC_RESTART".toList then (if operand.isEmpty then some crcRestart else none)
  else if name == "U8_FEEDN".toList then (parseBytes operand).map u8FeedN
  else if name == "U8_VALIDATE".toList then (parseBytes operand).map u8Validate
  else none

/-- One line: no command for a line with nothing but a comment, else the commands it stands for; `none` where the
assembler rejects the line (30_encoding.md R68, R69). -/
def assembleLine (line : List Char) : Option (List Instr) :=
  let text := trimBlanks (stripComment false line)
  let name := text.takeWhile (fun c => !isBlank c)
  let operand := trimBlanks (text.dropWhile (fun c => !isBlank c))
  if text.isEmpty then some []
  else
    match assembleCommand name operand with
    | some i => some [i]
    | none => assemblePseudo name operand

/-- A hexadecimal digit. -/
def hexDigit (n : Nat) : Char := Char.ofNat (if n < 10 then 48 + n else 55 + n)

/-- An assembled word in text: `0x` and 10 hexadecimal digits (30_encoding.md R68). -/
def wordText (w : CommandWord) : List Char :=
  '0' :: 'x' :: (List.range 10).map (fun k => hexDigit ((w.toNat / 16 ^ (9 - k)) % 16))

end Sys2Proof.Machine
end

