-- ==== Sys2Proof/Machine/Reference.lean ====
section
/-! DEFINITION. The source's functions as the spec writes them (00_scope.md R13): the constructions of the three tables
(40_crc32c.md R101, 41_utf8_dfa.md R141-R145), `crc32c_update` (R105), `is_valid_utf8` (R148), `is_valid_utf8_prefix`
(R149) and the canonical UTF-8 encoder of the correctness oracle (R157, 93_implementation_defined.md G2). The commands do
not call these; statements compare the two. -/

namespace Sys2Proof.Machine

/-- The reversed CRC-32C polynomial (00_scope.md R8). -/
def crcPolynomial : Word := 0x82F63B78#32

/-- One round of the table construction; the test is on the bit before the shift (40_crc32c.md R101). -/
def crcRound (c : Word) : Word := if c.getLsbD 0 then (c >>> 1) ^^^ crcPolynomial else c >>> 1

/-- `n` rounds. -/
def crcRounds : Nat → Word → Word
  | 0, c => c
  | n + 1, c => crcRounds n (crcRound c)

/-- The constructed entry of `CRC_T`: 8 rounds of the index, with no bit reversal (40_crc32c.md R101). -/
def crcTableEntry (i : Byte) : Word := crcRounds 8 (zext32 i)

/-- `build_crc32c_table()` (30_encoding.md R70). -/
def buildCrc32cTable : List Word := (List.range 256).map (fun k => crcTableEntry (BitVec.ofNat 8 k))

/-- The byte step with the constructed table, in the terms of 40_crc32c.md R104. -/
def crcStepByTable (crc : Word) (b : Byte) : Word :=
  (crc >>> 8) ^^^ crcTableEntry (((crc &&& 0xFF#32) ^^^ zext32 b).setWidth 8)

/-- `crc32c_update(seed, data)`: complement the seed, consume the bytes, complement the result (40_crc32c.md R105). -/
def crc32cUpdate (seed : Word) (data : List Byte) : Word := ~~~ (crcSteps (~~~ seed) data)

/-- The byte ranges of the eleven classes, as (first byte, last byte, class index) (41_utf8_dfa.md R141). -/
def classRanges : List (Byte × Byte × Byte) :=
  [ (0xC2#8, 0xDF#8, 0#8),
    (0xE0#8, 0xE0#8, 1#8),
    (0xE1#8, 0xEC#8, 2#8), (0xEE#8, 0xEF#8, 2#8),
    (0xED#8, 0xED#8, 3#8),
    (0xF0#8, 0xF0#8, 4#8),
    (0xF1#8, 0xF3#8, 5#8),
    (0xF4#8, 0xF4#8, 6#8),
    (0x80#8, 0x8F#8, 7#8),
    (0x90#8, 0x9F#8, 8#8),
    (0xA0#8, 0xBF#8, 9#8),
    (0xC0#8, 0xC1#8, 10#8), (0xF5#8, 0xFF#8, 10#8) ]

/-- The class indices of the ranges a byte lies in. The ranges partition 0x80-0xFF, so each such byte has one. -/
def classesMarking (b : Byte) : List Byte :=
  (classRanges.filter (fun r => decide (r.1 ≤ b ∧ b ≤ r.2.1))).map (fun r => r.2.2)

/-- The defined transitions, as (from code, classes, to code) (41_utf8_dfa.md R144). -/
def definedTransitions : List (Byte × List Byte × Byte) :=
  [ (0#8, [0#8], 11#8),
    (0#8, [1#8], 22#8),
    (0#8, [2#8], 33#8),
    (0#8, [3#8], 44#8),
    (0#8, [4#8], 55#8),
    (0#8, [5#8], 66#8),
    (0#8, [6#8], 77#8),
    (11#8, [7#8, 8#8, 9#8], 0#8),
    (22#8, [9#8], 11#8),
    (33#8, [7#8, 8#8, 9#8], 11#8),
    (44#8, [7#8, 8#8], 11#8),
    (55#8, [8#8, 9#8], 33#8),
    (66#8, [7#8, 8#8, 9#8], 33#8),
    (77#8, [7#8], 33#8) ]

/-- The constructed transition from a code on a class: a defined one, else error (41_utf8_dfa.md R144, R145). -/
def transEntry (code cls : Byte) : Byte :=
  match definedTransitions.find? (fun t => t.1 == code && t.2.1.contains cls) with
  | some t => t.2.2
  | none => errorCode

/-- The byte step with the classes by their ranges and the transitions by their list, in the terms of 41_utf8_dfa.md R147.
A byte at or above 0x80 lies in exactly one range, so the last case is met by no byte. From a code that is no legal state no
transition is listed, and the answer is error (DESIGN CHOICE, log entry 6): no table is read here. -/
def u8StepByRanges (code b : Byte) : Byte :=
  if code = errorCode then errorCode
  else if b < 0x80#8 then (if code = acceptCode then acceptCode else errorCode)
  else
    match classesMarking b with
    | cls :: _ => transEntry code cls
    | [] => errorCode

/-- The traversal of `is_valid_utf8` from a state, with its short-circuit (41_utf8_dfa.md R148). A table read outside its
valid indices, which does not occur from a legal code, counts as a failed validation (DESIGN CHOICE, log entry 6). -/
def isValidUtf8From (code : Byte) : List Byte → Bool
  | [] => decide (code = acceptCode)
  | b :: d =>
    if b < 0x80#8 then
      if code ≠ acceptCode then false else isValidUtf8From code d
    else
      match u8TransT (code.toNat + (u8ClassOf b).toNat) with
      | some next => if next = errorCode then false else isValidUtf8From next d
      | none => false

/-- `is_valid_utf8(d)`, strict validation (41_utf8_dfa.md R148). -/
def isValidUtf8 (d : List Byte) : Bool := isValidUtf8From acceptCode d

/-- The traversal of `is_valid_utf8_prefix`: identical, with the end-of-input check dropped (41_utf8_dfa.md R149).
A table read outside its valid indices counts as a failed validation here too (DESIGN CHOICE, log entry 6). -/
def isValidUtf8PrefixFrom (code : Byte) : List Byte → Bool
  | [] => true
  | b :: d =>
    if b < 0x80#8 then
      if code ≠ acceptCode then false else isValidUtf8PrefixFrom code d
    else
      match u8TransT (code.toNat + (u8ClassOf b).toNat) with
      | some next => if next = errorCode then false else isValidUtf8PrefixFrom next d
      | none => false

/-- `is_valid_utf8_prefix(d)`, prefix validation (41_utf8_dfa.md R149). -/
def isValidUtf8Prefix (d : List Byte) : Bool := isValidUtf8PrefixFrom acceptCode d

/-- Whether a 21-bit candidate is a scalar value: at most 0x10FFFF and no surrogate (41_utf8_dfa.md R157). -/
def isScalar (v : BitVec 21) : Bool :=
  decide (v.toNat ≤ 0x10FFFF ∧ ¬ (0xD800 ≤ v.toNat ∧ v.toNat < 0xE000))

/-- A continuation byte, `0x80 OR` six bits of the candidate from bit `lo` up (93_implementation_defined.md G2). -/
def continuationByte (v : BitVec 21) (lo : Nat) : Byte := 0x80#8 ||| (v.extractLsb' lo 6).setWidth 8

/-- The canonical encoder: the length rule of 41_utf8_dfa.md R157 with the bit layout of 93_implementation_defined.md G2
(PRESUMED: the spec marks the layout as general knowledge; log entry 12). -/
def encodeScalar (v : BitVec 21) : List Byte :=
  if v.toNat < 0x80 then [v.extractLsb' 0 8]
  else if v.toNat < 0x800 then
    [0xC0#8 ||| (v.extractLsb' 6 5).setWidth 8, continuationByte v 0]
  else if v.toNat < 0x10000 then
    [0xE0#8 ||| (v.extractLsb' 12 4).setWidth 8, continuationByte v 6, continuationByte v 0]
  else
    [0xF0#8 ||| (v.extractLsb' 18 3).setWidth 8, continuationByte v 12, continuationByte v 6, continuationByte v 0]

/-- All 256 bytes. -/
def allBytes : List Byte := (List.range 256).map (BitVec.ofNat 8)

/-- From a state, how many ways of going on with at most `n` bytes end at the first return to accept: the complete
encodings below a node of the oracle's trie (41_utf8_dfa.md R157). A byte whose step is not defined, which needs a code that
is no legal state (20_memory.md R41), counts 0: no complete encoding (DESIGN CHOICE, log entry 6). -/
def completeEncodings : Nat → Byte → Nat
  | 0, _ => 0
  | n + 1, code =>
    (allBytes.map (fun b =>
      match u8Step code b with
      | some next => if next = acceptCode then 1 else if next = errorCode then 0 else completeEncodings n next
      | none => 0)).sum

/-- From a state, how many bytes prefix validation rejects, over that state and every incomplete continuation of fewer than
`n` bytes: the illegal one-byte extensions below a node of the oracle's trie (41_utf8_dfa.md R157). A byte whose step is not
defined, which needs a code that is no legal state (20_memory.md R41), counts 0: not rejected (DESIGN CHOICE, log
entry 6). -/
def rejectedExtensions : Nat → Byte → Nat
  | 0, _ => 0
  | n + 1, code =>
    (allBytes.map (fun b =>
      match u8Step code b with
      | some next => if next = errorCode then 1 else if next = acceptCode then 0 else rejectedExtensions n next
      | none => 0)).sum

end Sys2Proof.Machine
end

