-- ==== Sys2Proof/Safety.lean ====
section
/-! DEFINITION. What counts as a safe run, in the terms the statements use (10_state.md R23, 70_reset_and_hazards.md R221). -/

namespace Sys2Proof.Machine

/-- The invariant of 10_state.md R23: once the block has been reset, `U8_STATE` is one of the nine legal codes. Before the
first reset the registers may hold anything (10_state.md R28). -/
abbrev State.Inv (s : State) : Prop := s.phase = .ready → legalStateCode s.u8State = true

/-- The host keeps the duty of 70_reset_and_hazards.md R221: no command before the first reset. -/
def State.hostResetsFirst (s : State) : Prop :=
  s.phase = .ready ∨ s.host = [] ∨ ∃ rest, s.host = .reset :: rest

/-- The state after one command: the registers and the host's remaining actions as given, one response more. -/
def State.afterCommand (s : State) (rest : List HostAction) (crc : Word) (code : Byte) (r : Response) : State :=
  { crcState := crc, u8State := code, phase := s.phase, host := rest, responses := s.responses ++ [r] }

/-- The unassigned opcodes, by their ranges (30_encoding.md R65 (a)). -/
abbrev opcodeUnassigned (op : Byte) : Prop :=
  (0x01 ≤ op.toNat ∧ op.toNat ≤ 0x0F) ∨ (0x16 ≤ op.toNat ∧ op.toNat ≤ 0x1F) ∨ (0x26 ≤ op.toNat ∧ op.toNat ≤ 0xFF)

/-- A reserved argument bit of the opcode's format is 1, with the formats of 30_encoding.md R64 and the reserved fields of
R62 written out: `W[31:0]` in FMT_N, `W[31:8]` in FMT_B, `W[31:7]` in FMT_I, none in FMT_W. -/
abbrev reservedBitSet (op : Byte) (arg : Word) : Prop :=
  (op.toNat ∈ [0x00, 0x13, 0x14, 0x20, 0x23] ∧ arg ≠ 0#32) ∨
  (op.toNat ∈ [0x11, 0x15, 0x21, 0x22] ∧ arg.extractLsb' 8 24 ≠ 0#24) ∨
  (op.toNat ∈ [0x24, 0x25] ∧ arg.extractLsb' 7 25 ≠ 0#25)

/-- The extra legality check fails (30_encoding.md R64, R65 (c)). -/
abbrev operandOutOfRange (op : Byte) (arg : Word) : Prop :=
  (op.toNat = 0x21 ∧ (arg.extractLsb' 0 8).toNat ∉ [0, 11, 22, 33, 44, 55, 66, 77, 88]) ∨
  (op.toNat = 0x25 ∧ 87 < (arg.extractLsb' 0 7).toNat)

/-- How many commands are among the host's actions. -/
def commandCount : List HostAction → Nat
  | [] => 0
  | .reset :: rest => commandCount rest
  | .command _ :: rest => commandCount rest + 1

/-- The response of each command of a sequence paired with that command, given the responses before and after it. -/
def pairedResponses (commands : List Instr) (before after : List Response) : List (Instr × Response) :=
  commands.zip (after.drop before.length)

end Sys2Proof.Machine
end

