-- ==== Sys2Proof/Certificates/Slice0/Obligations.lean ====
section
/-! DEFINITION. The statements for the provers. -/

open Sys2Proof Sys2Proof.Machine

/-! ## Reset, the port and the step -/

/-- R30, R220: the reset signal writes `CRC_STATE = 0xFFFFFFFF` and `U8_STATE = 0` from any state at all, the state after
reset holds the same values, and CRC_READ then returns 0. That the signal makes the block ready and leaves the responses and
the host's remaining actions as they were is the model's reading of R220 (log entry 10, DEDUCED). -/
def Obligations.ResetWritesTheResetValues : Prop :=
  (∀ (s : State) (rest : List HostAction), s.host = .reset :: rest →
    step s = .next { s with crcState := 0xFFFFFFFF#32, u8State := 0#8, phase := .ready, host := rest }) ∧
  State.reset.crcState = 0xFFFFFFFF#32 ∧ State.reset.u8State = 0#8 ∧ State.reset.phase = .ready ∧
  (∀ s : State, exec .crcRead s.applyReset =
    .next { s.applyReset with responses := s.responses ++ [⟨true, 0x00000000#32⟩] })

/-- R220, R212: with no move of the host the block waits; nothing changes. That a step with nothing issued is such a wait is
the model's choice (log entry 4). -/
def Obligations.BlockWaitsForTheHost : Prop :=
  ∀ s : State, s.host = [] → step s = .next s

/-- R221: a command issued before the first reset, legal or not, is a host fault with no result, whatever the registers
hold; and no meaning runs before the first reset. -/
def Obligations.CommandBeforeResetIsHostFault : Prop :=
  (∀ (s : State) (w : CommandWord) (rest : List HostAction), s.phase = .beforeReset → s.host = .command w :: rest →
    step s = .fault .commandBeforeReset) ∧
  (∀ (s : State) (i : Instr), s.phase = .beforeReset → exec i s = .fault .commandBeforeReset)

/-- 93 U1, R28: nothing can observe the register contents before the first reset. Any two of them give the same run, over
any number of steps, for every host that does something. -/
def Obligations.PowerOnContentsCannotBeObserved : Prop :=
  ∀ (n : Nat) (crc crc' : Word) (code code' : Byte) (action : HostAction) (rest : List HostAction),
    runSteps (n + 1) (State.powerOn crc code (action :: rest)) =
      runSteps (n + 1) (State.powerOn crc' code' (action :: rest))

/-- When the host's next move is a word that decodes to a command, the step is that command's execution, with the word
taken from the host's actions. -/
def Obligations.StepRunsTheDecodedCommand : Prop :=
  ∀ (s : State) (w : CommandWord) (rest : List HostAction) (i : Instr),
    s.host = .command w :: rest → decode w = .ok i → step s = exec i { s with host := rest }

/-- R201, R202: an illegal word changes no register and is answered `(0, cause)`; the causes and when each is raised, in
priority order. -/
def Obligations.IllegalCommandReportsItsCause : Prop :=
  ∀ (s : State) (w : CommandWord) (rest : List HostAction), s.phase = .ready → s.host = .command w :: rest →
    (opcodeUnassigned (opcodeField w) →
      step s = .next (s.afterCommand rest s.crcState s.u8State ⟨false, 1#32⟩)) ∧
    (¬ opcodeUnassigned (opcodeField w) → reservedBitSet (opcodeField w) (argField w) →
      step s = .next (s.afterCommand rest s.crcState s.u8State ⟨false, 2#32⟩)) ∧
    (¬ opcodeUnassigned (opcodeField w) → ¬ reservedBitSet (opcodeField w) (argField w) →
      operandOutOfRange (opcodeField w) (argField w) →
      step s = .next (s.afterCommand rest s.crcState s.u8State ⟨false, 3#32⟩))

/-- R206: the command after an illegal one is handled as if the illegal one had not been issued: the same outcome, but for
the one more response in the list. The next action may also be the reset signal, of which R206 does not speak: that reset
leaves the responses already given is log entry 10 (DEDUCED from R220). -/
def Obligations.NextCommandUnaffectedByIllegalOne : Prop :=
  ∀ (s : State) (w : CommandWord) (cause : IllegalCause) (action : HostAction) (rest : List HostAction),
    s.phase = .ready → decode w = .error cause →
    (∀ t, step { s with host := action :: rest } = .next t →
      ∃ new, t.responses = s.responses ++ new ∧
        runSteps 2 { s with host := .command w :: action :: rest } =
          .next { t with responses := s.responses ++ [⟨false, causeCode cause⟩] ++ new }) ∧
    (∀ r, step { s with host := action :: rest } = .fault r →
      runSteps 2 { s with host := .command w :: action :: rest } = .fault r)

/-- R60: from a state that meets the invariant, with a host that resets first, running as many steps as the host has actions
makes every one of them and answers every command exactly once. Resets may stand anywhere among the actions: that one gives
no response is R220, and that it leaves the responses and the host's remaining actions is log entry 10 (DEDUCED from R220). -/
def Obligations.EveryCommandIsAnsweredExactlyOnce : Prop :=
  ∀ s : State, s.Inv → s.hostResetsFirst →
    ∃ t new, runSteps s.host.length s = .next t ∧ t.host = [] ∧ t.responses = s.responses ++ new ∧
      new.length = commandCount s.host

/-- R228, R221: every run, a reset and then any finite sequence of command words, legal or not, has one observation, which
does not depend on what the registers held at power-on; it has one response per word, and ends with a legal code (R23).
That reset itself leaves the responses and the host's actions is log entry 10 (DEDUCED from R220). -/
def Obligations.EveryRunHasOneObservation : Prop :=
  ∀ words : List CommandWord, ∃ responses crc code,
    (∀ (crc₀ : Word) (code₀ : Byte), observeRun crc₀ code₀ words = some (responses, crc, code)) ∧
    responses.length = words.length ∧ legalStateCode code = true

/-! ## Decode and encode -/

/-- Command words written out from R62 and R64 decode to the commands they stand for. -/
def Obligations.WrittenOutWordsDecode : Prop :=
  decode 0x0000000000#40 = .ok .nop ∧
  decode 0x1012345678#40 = .ok (.crcSeed 0x12345678#32) ∧
  decode 0x1100000068#40 = .ok (.crcFeed8 0x68#8) ∧
  decode 0x1234333231#40 = .ok (.crcFeed32 0x34333231#32) ∧
  decode 0x2100000021#40 = .ok (.u8Load 33#8) ∧
  decode 0x22000000E2#40 = .ok (.u8Feed8 0xE2#8) ∧
  decode 0x240000006D#40 = .ok (.u8Class 0x6D#7) ∧
  decode 0x2500000057#40 = .ok (.u8Trans 87#7)

/-- R65, R66: which words are illegal, with which cause, by the conditions written out; every other word is legal. -/
def Obligations.DecodeFollowsTheLegalityConditions : Prop :=
  ∀ w : CommandWord,
    (decode w = .error .illegalOpcode ↔ opcodeUnassigned (opcodeField w)) ∧
    (decode w = .error .illegalReserved ↔
      ¬ opcodeUnassigned (opcodeField w) ∧ reservedBitSet (opcodeField w) (argField w)) ∧
    (decode w = .error .illegalRange ↔
      ¬ opcodeUnassigned (opcodeField w) ∧ ¬ reservedBitSet (opcodeField w) (argField w) ∧
        operandOutOfRange (opcodeField w) (argField w)) ∧
    ((∃ i, decode w = .ok i) ↔
      ¬ opcodeUnassigned (opcodeField w) ∧ ¬ reservedBitSet (opcodeField w) (argField w) ∧
        ¬ operandOutOfRange (opcodeField w) (argField w))

/-- Decoding the word of a well-formed command gives the command back, with every operand at every value. -/
def Obligations.DecodeOfEncodeIsTheCommand : Prop :=
  ∀ i : Instr, i.wellFormed = true → decode (encode i) = .ok i

/-- Every legal word is the encoding of the one command it decodes to, and that command is well formed. -/
def Obligations.EncodeOfDecodeIsTheWord : Prop :=
  ∀ (w : CommandWord) (i : Instr), decode w = .ok i → encode i = w ∧ i.wellFormed = true

/-- R68: the examples of the assembler's text, the rejection of an operand that does not fit, and the comment. That a blank
may stand between the operand and the comment (second clause) is the model's choice (log entry 13, DESIGN CHOICE). -/
def Obligations.AssemblerExamples : Prop :=
  assembleLine "CRC_SEED 0x00000000".toList = some [.crcSeed 0#32] ∧
  assembleLine "CRC_FEED8 0x68 ; a data byte".toList = some [.crcFeed8 0x68#8] ∧
  wordText (encode (.crcFeed8 0x68#8)) = "0x1100000068".toList ∧
  assembleLine "U8_LOAD 33".toList = some [.u8Load 33#8] ∧
  assembleLine "U8_TRANS 0x03".toList = some [.u8Trans 3#7] ∧
  assembleLine "NOP".toList = some [.nop] ∧
  assembleLine "CRC_FEED8 256".toList = none

/-! ## The invariant -/

/-- The state after reset meets the invariant. -/
def Obligations.ResetStateHasLegalCode : Prop := State.reset.Inv

/-- Every step keeps the invariant of R23: once reset, `U8_STATE` is one of the nine legal codes. -/
def Obligations.EveryStepKeepsLegalCode : Prop :=
  ∀ s t : State, s.Inv → step s = .next t → t.Inv

/-- R23: after a reset, whatever the state before it and whatever the host does then, the run goes on and `U8_STATE` is
always one of the nine legal values. That the run goes on past the host's last action, a step with no action left being a
next state, is the model's reading (log entry 4, DEDUCED from R220). -/
def Obligations.LegalCodeAtEveryStateAfterReset : Prop :=
  ∀ (n : Nat) (s : State),
    ∃ t, runSteps (n + 1) { s with host := .reset :: s.host } = .next t ∧ t.phase = .ready ∧
      t.u8State ∈ [0#8, 11#8, 22#8, 33#8, 44#8, 55#8, 66#8, 77#8, 88#8]

/-- A host that resets first is never stopped: every run goes on, for any number of steps. That a step with no host action
left is a next state, so that the run goes on past the host's last action, is the model's reading (log entry 4, DEDUCED from
R220). -/
def Obligations.HostThatResetsFirstIsNeverStopped : Prop :=
  ∀ (n : Nat) (s : State), s.Inv → s.hostResetsFirst → ∃ t, runSteps n s = .next t

/-! ## Frames and independence -/

/-- R3: the frame of every command, and that a command addressed to one engine neither writes nor reads the other engine's
register. -/
def Obligations.NoCommandTouchesTheOtherEngine : Prop :=
  ∀ (i : Instr) (s t : State), exec i s = .next t →
    t.phase = s.phase ∧ t.host = s.host ∧ (∃ r, t.responses = s.responses ++ [r]) ∧
    (engineOf i ≠ some .ce → t.crcState = s.crcState ∧
      ∀ crc : Word, exec i { s with crcState := crc } = .next { t with crcState := crc }) ∧
    (engineOf i ≠ some .ue → t.u8State = s.u8State ∧
      ∀ code : Byte, exec i { s with u8State := code } = .next { t with u8State := code })

/-- R47: a read command changes nothing but the list of responses, and repeating it gives the same response. -/
def Obligations.ReadCommandsChangeNothing : Prop :=
  ∀ (i : Instr) (s t : State), isReadCommand i = true → exec i s = .next t →
    ∃ r, t = { s with responses := s.responses ++ [r] } ∧
      exec i t = .next { s with responses := s.responses ++ [r] ++ [r] }

/-- R51: any interleaving of commands leaves both registers, and the response of each command, the same as running the CE
commands and the UE commands separately. The lists may hold U8_LOAD and U8_TRANS terms that no legal word spells: that these
complete, with cause 3 and no register changed, is log entry 7 (DEDUCED). -/
def Obligations.EngineSequencesCommute : Prop :=
  ∀ (commands : List Instr) (s : State), s.Inv → s.phase = .ready →
    ∃ t c u,
      execAll commands s = .next t ∧
      execAll (commands.filter (fun i => engineOf i == some .ce)) s = .next c ∧
      execAll (commands.filter (fun i => engineOf i == some .ue)) s = .next u ∧
      t.crcState = c.crcState ∧ t.u8State = u.u8State ∧
      t.responses.length = s.responses.length + commands.length ∧
      (pairedResponses commands s.responses t.responses).filter (fun p => engineOf p.1 == some .ce) =
        pairedResponses (commands.filter (fun i => engineOf i == some .ce)) s.responses c.responses ∧
      (pairedResponses commands s.responses t.responses).filter (fun p => engineOf p.1 == some .ue) =
        pairedResponses (commands.filter (fun i => engineOf i == some .ue)) s.responses u.responses

/-! ## The commands, one by one: result, frame, completion, encoding and illegal forms -/

/-- R180: NOP. -/
def Obligations.NopAnswersZero : Prop :=
  (∀ s : State, s.phase = .ready →
    exec .nop s = .next (s.afterCommand s.host s.crcState s.u8State ⟨true, 0#32⟩)) ∧
  (∀ (s : State) (arg : Word) (rest : List HostAction), s.phase = .ready →
    s.host = .command (commandWord 0x00#8 arg) :: rest →
    step s = if arg = 0#32 then exec .nop { s with host := rest }
      else .next (s.afterCommand rest s.crcState s.u8State ⟨false, 2#32⟩))

/-- R110: CRC_SEED. -/
def Obligations.CrcSeedLoadsTheComplement : Prop :=
  (∀ (s : State) (word : Word), s.phase = .ready →
    exec (.crcSeed word) s = .next (s.afterCommand s.host (~~~ word) s.u8State ⟨true, word⟩)) ∧
  (∀ (s : State) (arg : Word) (rest : List HostAction), s.host = .command (commandWord 0x10#8 arg) :: rest →
    step s = exec (.crcSeed arg) { s with host := rest })

/-- R111: CRC_FEED8, with the table entry as constructed by R101. -/
def Obligations.CrcFeed8ConsumesOneByte : Prop :=
  (∀ (s : State) (byte : Byte), s.phase = .ready →
    exec (.crcFeed8 byte) s = .next (s.afterCommand s.host (crcStepByTable s.crcState byte) s.u8State
      ⟨true, ~~~ crcStepByTable s.crcState byte⟩)) ∧
  (∀ (s : State) (arg : Word) (rest : List HostAction), s.phase = .ready →
    s.host = .command (commandWord 0x11#8 arg) :: rest →
    step s = if arg.extractLsb' 8 24 = 0#24 then exec (.crcFeed8 (arg.extractLsb' 0 8)) { s with host := rest }
      else .next (s.afterCommand rest s.crcState s.u8State ⟨false, 2#32⟩))

/-- R112: CRC_FEED32 consumes its four bytes least significant first, in one step. -/
def Obligations.CrcFeed32ConsumesFourBytes : Prop :=
  (∀ (s : State) (word crc : Word), s.phase = .ready →
    crc = crcStepByTable (crcStepByTable (crcStepByTable (crcStepByTable s.crcState
      (word.extractLsb' 0 8)) (word.extractLsb' 8 8)) (word.extractLsb' 16 8)) (word.extractLsb' 24 8) →
    exec (.crcFeed32 word) s = .next (s.afterCommand s.host crc s.u8State ⟨true, ~~~ crc⟩)) ∧
  (∀ (s : State) (arg : Word) (rest : List HostAction), s.host = .command (commandWord 0x12#8 arg) :: rest →
    step s = exec (.crcFeed32 arg) { s with host := rest })

/-- R113: CRC_READ. -/
def Obligations.CrcReadAnswersTheFinalisedValue : Prop :=
  (∀ s : State, s.phase = .ready →
    exec .crcRead s = .next (s.afterCommand s.host s.crcState s.u8State ⟨true, ~~~ s.crcState⟩)) ∧
  (∀ (s : State) (arg : Word) (rest : List HostAction), s.phase = .ready →
    s.host = .command (commandWord 0x13#8 arg) :: rest →
    step s = if arg = 0#32 then exec .crcRead { s with host := rest }
      else .next (s.afterCommand rest s.crcState s.u8State ⟨false, 2#32⟩))

/-- R114: CRC_CHECK. -/
def Obligations.CrcCheckComparesWithTheResidue : Prop :=
  (∀ s : State, s.phase = .ready →
    exec .crcCheck s = .next (s.afterCommand s.host s.crcState s.u8State
      ⟨true, if ~~~ s.crcState = 0x48674BC7#32 then 1#32 else 0#32⟩)) ∧
  (∀ (s : State) (arg : Word) (rest : List HostAction), s.phase = .ready →
    s.host = .command (commandWord 0x14#8 arg) :: rest →
    step s = if arg = 0#32 then exec .crcCheck { s with host := rest }
      else .next (s.afterCommand rest s.crcState s.u8State ⟨false, 2#32⟩))

/-- R115: CRC_TABLE, with the entry as constructed by R101. -/
def Obligations.CrcTableReadsBackOneEntry : Prop :=
  (∀ (s : State) (byte : Byte), s.phase = .ready →
    exec (.crcTable byte) s = .next (s.afterCommand s.host s.crcState s.u8State ⟨true, crcTableEntry byte⟩)) ∧
  (∀ (s : State) (arg : Word) (rest : List HostAction), s.phase = .ready →
    s.host = .command (commandWord 0x15#8 arg) :: rest →
    step s = if arg.extractLsb' 8 24 = 0#24 then exec (.crcTable (arg.extractLsb' 0 8)) { s with host := rest }
      else .next (s.afterCommand rest s.crcState s.u8State ⟨false, 2#32⟩))

/-- R151: U8_CLEAR. From the error state, no command but U8_CLEAR and U8_LOAD leads back. -/
def Obligations.U8ClearStartsAStream : Prop :=
  (∀ s : State, s.phase = .ready →
    exec .u8Clear s = .next (s.afterCommand s.host s.crcState 0#8 ⟨true, 0x00000003#32⟩)) ∧
  (∀ (s : State) (arg : Word) (rest : List HostAction), s.phase = .ready →
    s.host = .command (commandWord 0x20#8 arg) :: rest →
    step s = if arg = 0#32 then exec .u8Clear { s with host := rest }
      else .next (s.afterCommand rest s.crcState s.u8State ⟨false, 2#32⟩)) ∧
  (∀ (i : Instr) (s t : State), s.u8State = 88#8 → exec i s = .next t → t.u8State ≠ 88#8 →
    i = .u8Clear ∨ ∃ byte, i = .u8Load byte)

/-- R152: U8_LOAD, for every one of the nine codes; and for every command word with its opcode. -/
def Obligations.U8LoadRestoresALegalCode : Prop :=
  (∀ (s : State) (byte : Byte), s.phase = .ready → byte.toNat ∈ [0, 11, 22, 33, 44, 55, 66, 77, 88] →
    exec (.u8Load byte) s = .next (s.afterCommand s.host s.crcState byte ⟨true, statusWord byte⟩)) ∧
  (∀ (s : State) (arg : Word) (rest : List HostAction), s.phase = .ready →
    s.host = .command (commandWord 0x21#8 arg) :: rest →
    step s =
      if arg.extractLsb' 8 24 ≠ 0#24 then .next (s.afterCommand rest s.crcState s.u8State ⟨false, 2#32⟩)
      else if (arg.extractLsb' 0 8).toNat ∈ [0, 11, 22, 33, 44, 55, 66, 77, 88] then
        exec (.u8Load (arg.extractLsb' 0 8)) { s with host := rest }
      else .next (s.afterCommand rest s.crcState s.u8State ⟨false, 3#32⟩))

/-- R153, R147: U8_FEED8, with the classes by their ranges (R141) and the transitions by their list (R144). -/
def Obligations.U8Feed8ConsumesOneByte : Prop :=
  (∀ (s : State) (byte : Byte), s.phase = .ready → legalStateCode s.u8State = true →
    exec (.u8Feed8 byte) s = .next (s.afterCommand s.host s.crcState (u8StepByRanges s.u8State byte)
      ⟨true, statusWord (u8StepByRanges s.u8State byte)⟩)) ∧
  (∀ (s : State) (arg : Word) (rest : List HostAction), s.phase = .ready →
    s.host = .command (commandWord 0x22#8 arg) :: rest →
    step s = if arg.extractLsb' 8 24 = 0#24 then exec (.u8Feed8 (arg.extractLsb' 0 8)) { s with host := rest }
      else .next (s.afterCommand rest s.crcState s.u8State ⟨false, 2#32⟩))

/-- R154: U8_STATUS. -/
def Obligations.U8StatusAnswersTheStatusWord : Prop :=
  (∀ s : State, s.phase = .ready →
    exec .u8Status s = .next (s.afterCommand s.host s.crcState s.u8State ⟨true, statusWord s.u8State⟩)) ∧
  (∀ (s : State) (arg : Word) (rest : List HostAction), s.phase = .ready →
    s.host = .command (commandWord 0x23#8 arg) :: rest →
    step s = if arg = 0#32 then exec .u8Status { s with host := rest }
      else .next (s.afterCommand rest s.crcState s.u8State ⟨false, 2#32⟩))

/-- R155: U8_CLASS, with the class as the one whose ranges hold the byte (R141). -/
def Obligations.U8ClassReadsBackOneEntry : Prop :=
  (∀ (s : State) (idx : Index), s.phase = .ready →
    ∃ cls, classesMarking (0x80#8 + idx.setWidth 8) = [cls] ∧
      exec (.u8Class idx) s = .next (s.afterCommand s.host s.crcState s.u8State ⟨true, cls.setWidth 32⟩)) ∧
  (∀ (s : State) (arg : Word) (rest : List HostAction), s.phase = .ready →
    s.host = .command (commandWord 0x24#8 arg) :: rest →
    step s = if arg.extractLsb' 7 25 = 0#25 then exec (.u8Class (arg.extractLsb' 0 7)) { s with host := rest }
      else .next (s.afterCommand rest s.crcState s.u8State ⟨false, 2#32⟩))

/-- R156: U8_TRANS, with the entry as constructed by R144 and R145, for every index 0..87; and for every command word with
its opcode. -/
def Obligations.U8TransReadsBackOneEntry : Prop :=
  (∀ (s : State) (idx : Index), s.phase = .ready → idx.toNat ≤ 87 →
    exec (.u8Trans idx) s = .next (s.afterCommand s.host s.crcState s.u8State
      ⟨true, (transEntry (BitVec.ofNat 8 (idx.toNat / 11 * 11)) (BitVec.ofNat 8 (idx.toNat % 11))).setWidth 32⟩)) ∧
  (∀ (s : State) (arg : Word) (rest : List HostAction), s.phase = .ready →
    s.host = .command (commandWord 0x25#8 arg) :: rest →
    step s =
      if arg.extractLsb' 7 25 ≠ 0#25 then .next (s.afterCommand rest s.crcState s.u8State ⟨false, 2#32⟩)
      else if (arg.extractLsb' 0 7).toNat ≤ 87 then exec (.u8Trans (arg.extractLsb' 0 7)) { s with host := rest }
      else .next (s.afterCommand rest s.crcState s.u8State ⟨false, 3#32⟩))

/-- A command term that no legal word spells (an operand that fails its extra legality check) is answered as the illegal word
it encodes to is: cause 3, no register changed. That the meaning itself answers so is the model's choice (log entry 7). -/
def Obligations.IllFormedOperandAnswersCauseThree : Prop :=
  ∀ (s : State) (i : Instr), s.phase = .ready → i.wellFormed = false →
    exec i s = .next (s.afterCommand s.host s.crcState s.u8State ⟨false, 3#32⟩) ∧
      decode (encode i) = .error .illegalRange

/-! ## CRC-32C -/

/-- R101: the stored table is the construction: 8 rounds of every index. -/
def Obligations.StoredCrcTableIsTheConstruction : Prop := crcRom = buildCrc32cTable

/-- R102: every entry is 8 rounds of its index, the three named consequences, and linearity over XOR. -/
def Obligations.CrcTableIsLinear : Prop :=
  (∀ i : Byte, crcT i = crcRounds 8 (i.setWidth 32)) ∧ crcT 0x00#8 = 0#32 ∧ crcT 0x80#8 = 0x82F63B78#32 ∧
  ∀ x y : Byte, crcT (x ^^^ y) = crcT x ^^^ crcT y

/-- R44, R100, R104: the table-driven byte step is the bit-by-bit reflected CRC: XOR the byte into the low end of the
register and do 8 rounds. -/
def Obligations.ByteStepIsEightBitRounds : Prop :=
  ∀ (crc : Word) (b : Byte), crcStep crc b = crcRounds 8 (crc ^^^ b.setWidth 32)

/-- R106: the value of `CRC_OK_REM` and of the register that yields it. -/
def Obligations.ResidueConstantValue : Prop :=
  crc32cUpdate 0#32 [0x00#8, 0x00#8, 0x00#8, 0x00#8] = 0x48674BC7#32 ∧
  crcSteps (~~~ 0#32) [0x00#8, 0x00#8, 0x00#8, 0x00#8] = 0xB798B438#32 ∧
  crcOkRem = 0x48674BC7#32

/-- R107, R108: the empty message returns the seed; feeding in two calls is feeding the concatenation, with the returned
value as the next seed; and the complemented token of 90_conflicts.md C1 gives a different result. -/
def Obligations.ChecksumIsComposable : Prop :=
  (∀ seed : Word, crc32cUpdate seed [] = seed) ∧
  (∀ (seed : Word) (a b : List Byte), crc32cUpdate (crc32cUpdate seed a) b = crc32cUpdate seed (a ++ b)) ∧
  crc32cUpdate (~~~ crc32cUpdate 0#32 [0x68#8, 0x65#8, 0x6C#8, 0x6C#8, 0x6F#8])
    [0x20#8, 0x74#8, 0x68#8, 0x65#8, 0x72#8, 0x65#8] = 0x0D55170A#32 ∧
  crc32cUpdate (crc32cUpdate 0#32 [0x68#8, 0x65#8, 0x6C#8, 0x6C#8, 0x6F#8])
    [0x20#8, 0x74#8, 0x68#8, 0x65#8, 0x72#8, 0x65#8] = 0xA580947F#32

/-- R116: feeding a word is XORing it into the register and feeding four zero bytes. -/
def Obligations.WordFeedLemma : Prop :=
  ∀ r w : Word, crcSteps r (le32 w) = crcSteps (r ^^^ w) [0x00#8, 0x00#8, 0x00#8, 0x00#8]

/-- R109: a record followed by its own checksum, least significant byte first, always has the checksum `CRC_OK_REM`. -/
def Obligations.SelfVerifyingRecord : Prop :=
  ∀ (c0 : Word) (a : List Byte), crc32cUpdate c0 (a ++ le32 (crc32cUpdate c0 a)) = 0x48674BC7#32

/-- R112, R69: from any register, CRC_APPEND with what its CRC_READ returned, then CRC_CHECK: the read returns the finalised
value, the word feed returns `CRC_OK_REM` and the check returns 1. -/
def Obligations.AppendedRecordPassesTheCheck : Prop :=
  ∀ s : State, s.phase = .ready →
    ∃ t, execAll (crcAppend (~~~ s.crcState) ++ [.crcCheck]) s = .next t ∧
      t.responses = s.responses ++ [⟨true, ~~~ s.crcState⟩, ⟨true, 0x48674BC7#32⟩, ⟨true, 1#32⟩]

/-- R45: CRC_FEED32 leaves the same registers, and gives the same last response, as CRC_FEED8 of its four bytes. -/
def Obligations.WordFeedIsFourByteFeeds : Prop :=
  ∀ (s : State) (w : Word), s.phase = .ready →
    ∃ t u, exec (.crcFeed32 w) s = .next t ∧
      execAll [.crcFeed8 (w.extractLsb' 0 8), .crcFeed8 (w.extractLsb' 8 8), .crcFeed8 (w.extractLsb' 16 8),
        .crcFeed8 (w.extractLsb' 24 8)] s = .next u ∧
      t.crcState = u.crcState ∧ t.u8State = u.u8State ∧ t.responses.getLast? = u.responses.getLast?

/-- R27, R224: saving and restoring are exact on both engines. The token of CRC_READ, fed to CRC_SEED in any other state,
restores `CRC_STATE`; the STATE field of U8_STATUS, fed to U8_LOAD, restores `U8_STATE`. -/
def Obligations.SaveAndRestoreAreExact : Prop :=
  (∀ s u : State, s.phase = .ready → u.phase = .ready →
    ∃ t r v, exec .crcRead s = .next t ∧ t.responses = s.responses ++ [⟨true, r⟩] ∧
      exec (.crcSeed r) u = .next v ∧ v.crcState = s.crcState) ∧
  (∀ s u : State, s.phase = .ready → u.phase = .ready → legalStateCode s.u8State = true →
    ∃ t r v, exec .u8Status s = .next t ∧ t.responses = s.responses ++ [⟨true, r⟩] ∧
      exec (.u8Load (r.extractLsb' 8 8)) u = .next v ∧ v.u8State = s.u8State)

/-- R119: the machine, given CRC_SEED, then any commands that start no other CE message, then CRC_READ, answers
`crc32c_update` of the seed and the bytes they feed; CRC_FEED8 and CRC_FEED32 may be mixed, and CE read commands, UE
commands and NOP may stand anywhere. If the last of them is a CRC_FEED8, it answers the same value. R119's sentence on
replacing four CRC_FEED8 by one CRC_FEED32 is ReplacingByteFeedsByAWordFeedChangesNothingAfter. -/
def Obligations.CrcStreamComputesTheReference : Prop :=
  ∀ (s : State) (seed : Word) (commands : List Instr), s.Inv → s.phase = .ready →
    (∀ i ∈ commands, i.wellFormed = true ∧ startsCrcMessage i = false) →
    ∃ t, runSteps (commands.length + 2) (s.issue (.crcSeed seed :: (commands ++ [.crcRead]))) = .next t ∧
      t.host = s.host ∧ t.crcState = ~~~ crc32cUpdate seed (commands.flatMap crcFed) ∧
      t.responses.getLast? = some ⟨true, crc32cUpdate seed (commands.flatMap crcFed)⟩ ∧
      (∀ b, commands.getLast? = some (.crcFeed8 b) →
        t.responses.dropLast.getLast? = some ⟨true, crc32cUpdate seed (commands.flatMap crcFed)⟩)

/-- R119: in any sequence of commands, replacing four consecutive CRC_FEED8 by the CRC_FEED32 of their bytes, the first byte
least significant, changes no response before or after them and no final state: the registers, the phase and the host's
actions are the same. The other commands may be U8_LOAD and U8_TRANS terms that no legal word spells: that these complete,
with cause 3 and no register changed, is log entry 7 (DEDUCED). -/
def Obligations.ReplacingByteFeedsByAWordFeedChangesNothingAfter : Prop :=
  ∀ (s : State) (before after : List Instr) (b0 b1 b2 b3 : Byte), s.Inv → s.phase = .ready →
    ∃ t u first middle middle' last,
      execAll (before ++ [.crcFeed8 b0, .crcFeed8 b1, .crcFeed8 b2, .crcFeed8 b3] ++ after) s = .next t ∧
      execAll (before ++ [.crcFeed32 (b3 ++ b2 ++ b1 ++ b0)] ++ after) s = .next u ∧
      t.responses = s.responses ++ first ++ middle ++ last ∧
      u.responses = s.responses ++ first ++ middle' ++ last ∧
      first.length = before.length ∧ middle.length = 4 ∧ middle'.length = 1 ∧ last.length = after.length ∧
      u = { t with responses := u.responses }

/-! ## UTF-8 -/

/-- R141, R142: the class ranges partition the bytes 0x80-0xFF, and the stored class of each is the one whose range holds
it. -/
def Obligations.StoredClassTableIsThePartition : Prop :=
  ∀ i : Index, classesMarking (0x80#8 + i.setWidth 8) = [u8ClassT i]

/-- R144, R145, R146: the stored transition table is the construction, row by row; nothing is stored above index 87. -/
def Obligations.StoredTransitionTableIsTheConstruction : Prop :=
  (∀ row < 8, ∀ cls < 11,
    u8TransT (11 * row + cls) = some (transEntry (BitVec.ofNat 8 (11 * row)) (BitVec.ofNat 8 cls))) ∧
  (∀ k, 88 ≤ k → u8TransT k = none) ∧
  (∀ k v, u8TransT k = some v → legalStateCode v = true)

/-- R41: from every legal code but error, and for every byte at or above 0x80, the index read is at most 87 and MemRead is
defined there. -/
def Obligations.TransitionReadIsAlwaysInRange : Prop :=
  ∀ code b : Byte, legalStateCode code = true → code ≠ 88#8 → 0x80#8 ≤ b →
    code.toNat + (u8ClassOf b).toNat ≤ 87 ∧ ∃ v, u8TransT (code.toNat + (u8ClassOf b).toNat) = some v

/-- R150: the fields of the status word for every state code, and its three forms. -/
def Obligations.StatusWordFields : Prop :=
  (∀ code : Byte,
    (statusWord code).getLsbD 0 = decide (code = 0#8) ∧
    (statusWord code).getLsbD 1 = decide (code ≠ 88#8) ∧
    (statusWord code).extractLsb' 2 6 = 0#6 ∧
    (statusWord code).extractLsb' 8 8 = code ∧
    (statusWord code).extractLsb' 16 16 = 0#16) ∧
  statusWord 0#8 = 0x00000003#32 ∧ statusWord 88#8 = 0x00005800#32 ∧
  (∀ code : Byte, code ≠ 0#8 → code ≠ 88#8 → statusWord code = (code.setWidth 32 <<< 8) ||| 2#32)

/-- R153: the corner cases of the byte step, over every legal state. Error is absorbing; ASCII is legal only in accept; a
lead byte while a sequence is pending, a continuation byte in accept and the bytes 0xC0, 0xC1, 0xF5-0xFF are errors. -/
def Obligations.ByteStepCornerCases : Prop :=
  ∀ code b : Byte, legalStateCode code = true →
    u8Step 88#8 b = some 88#8 ∧
    (b < 0x80#8 → u8Step 0#8 b = some 0#8 ∧ (code ≠ 0#8 → u8Step code b = some 88#8)) ∧
    (0xC2#8 ≤ b → b ≤ 0xF4#8 → code ≠ 0#8 → u8Step code b = some 88#8) ∧
    (0x80#8 ≤ b → b ≤ 0xBF#8 → u8Step 0#8 b = some 88#8) ∧
    (b = 0xC0#8 ∨ b = 0xC1#8 ∨ 0xF5#8 ≤ b → u8Step code b = some 88#8) ∧
    (0xA0#8 ≤ b → b ≤ 0xBF#8 → u8Steps 0#8 [0xED#8, b] = some 88#8)

/-- R148: the short-circuiting strict validator is the final state being accept. -/
def Obligations.StrictValidatorIsFinalStateAccept : Prop :=
  ∀ d : List Byte, isValidUtf8 d = decide (u8Steps 0#8 d = some 0#8)

/-- R149: the prefix validator is the state never being error, and its two consequences. -/
def Obligations.LenientValidatorIsStateNotError : Prop :=
  (∀ d : List Byte, isValidUtf8Prefix d = decide (u8Steps 0#8 d ≠ some 88#8)) ∧
  (∀ a b : List Byte, isValidUtf8Prefix (a ++ b) = true → isValidUtf8Prefix a = true) ∧
  (∀ d : List Byte, isValidUtf8 d = true → isValidUtf8Prefix d = true)

/-- R158: ASCII purity, truncation, and structural rejection of overlong leads and surrogates. The multi-byte encodings are
those of the encoder of 93 G2, which the spec marks as general knowledge (log entry 12). -/
def Obligations.SourceUtf8Properties : Prop :=
  (∀ d : List Byte, (∀ b ∈ d, b < 0x80#8) → isValidUtf8 d = true) ∧
  (∀ (v : BitVec 21) (a b : List Byte), isScalar v = true → encodeScalar v = a ++ b → a ≠ [] → b ≠ [] →
    isValidUtf8 a = false ∧ isValidUtf8Prefix a = true) ∧
  (∀ (d : List Byte) (b : Byte), b = 0xC0#8 ∨ b = 0xC1#8 → b ∈ d →
    isValidUtf8 d = false ∧ isValidUtf8Prefix d = false) ∧
  (∀ (d : List Byte) (b : Byte), 0xA0#8 ≤ b → b ≤ 0xBF#8 →
    isValidUtf8 (0xED#8 :: b :: d) = false ∧ isValidUtf8Prefix (0xED#8 :: b :: d) = false)

/-- R144, R157: the validator accepts exactly the sequences of canonical encodings of scalar values. The encoder's bit
layout is that of 93 G2, which the spec marks as general knowledge (log entry 12). -/
def Obligations.ValidatorAcceptsExactlyTheEncodings : Prop :=
  ∀ d : List Byte, isValidUtf8 d = true ↔
    ∃ vs : List (BitVec 21), (∀ v ∈ vs, isScalar v = true) ∧ d = vs.flatMap encodeScalar

/-- R157: the oracle's two counts, the empty prefix included (90_conflicts.md C5; 77 of the rejections are at it). No further
byte adds to them, since a sequence is complete after four bytes. -/
def Obligations.OracleCounts : Prop :=
  completeEncodings 4 0#8 = 1112064 ∧ rejectedExtensions 4 0#8 = 3389197 ∧
  rejectedExtensions 1 0#8 = 77 ∧
  (∀ n, 4 ≤ n → completeEncodings n 0#8 = 1112064 ∧ rejectedExtensions n 0#8 = 3389197)

/-- R14, R159: prefix validity is being the beginning of some valid sequence, so an incomplete sequence can be completed and
a malformed one cannot. -/
def Obligations.LenientlyValidIffExtendsToValid : Prop :=
  ∀ d : List Byte, isValidUtf8Prefix d = true ↔ ∃ e : List Byte, isValidUtf8 (d ++ e) = true

/-- R160: the machine, given U8_CLEAR, then any commands that start or restore no other UE stream, then U8_STATUS, answers
the status word whose STATE is the state the fed bytes lead to, whose VALID is the strict validator and whose PREFIX_OK is
the prefix validator; CE commands, NOP and UE read commands may stand anywhere. If the last of them is a U8_FEED8 it
answers the same word, and feeding on after the first PREFIX_OK = 0 changes no final status. -/
def Obligations.Utf8StreamComputesTheReference : Prop :=
  (∀ (s : State) (commands : List Instr), s.phase = .ready →
    (∀ i ∈ commands, i.wellFormed = true ∧ startsU8Stream i = false) →
    ∃ t status, runSteps (commands.length + 2) (s.issue (.u8Clear :: (commands ++ [.u8Status]))) = .next t ∧
      t.host = s.host ∧ t.responses.getLast? = some ⟨true, status⟩ ∧
      u8Steps 0#8 (commands.flatMap u8Fed) = some (status.extractLsb' 8 8) ∧
      t.u8State = status.extractLsb' 8 8 ∧
      status.getLsbD 0 = isValidUtf8 (commands.flatMap u8Fed) ∧
      status.getLsbD 1 = isValidUtf8Prefix (commands.flatMap u8Fed) ∧
      (∀ b, commands.getLast? = some (.u8Feed8 b) → t.responses.dropLast.getLast? = some ⟨true, status⟩)) ∧
  (∀ a b : List Byte, u8Steps 0#8 a = some 88#8 → u8Steps 0#8 (a ++ b) = some 88#8)

/-- R70: the three table calls: reading every index in order answers the whole table and changes no register. -/
def Obligations.TableCallsReturnTheTables : Prop :=
  ∀ s : State, s.phase = .ready →
    runSteps 256 (s.issue crcTableCommands) =
      .next { s with responses := s.responses ++ buildCrc32cTable.map (fun entry => ⟨true, entry⟩) } ∧
    runSteps 128 (s.issue u8ClassTableCommands) =
      .next { s with responses := s.responses ++ u8ClassRom.map (fun cls => ⟨true, cls.setWidth 32⟩) } ∧
    runSteps 88 (s.issue u8TransTableCommands) =
      .next { s with responses := s.responses ++ u8TransRom.map (fun code => ⟨true, code.setWidth 32⟩) }
end

