-- ==== Sys2Proof/Config.lean ====
section
/-! DEFINITION. The two OPEN parameters of 00_scope.md R8. No rule depends on either, so both are uninterpreted constants
that nothing in the model reads (log entry 8). Every other parameter of R8 is fixed by the spec and stands where it is
used: the tables and constants in Machine/Tables.lean. -/

namespace Sys2Proof.Config

/-- `LAT`, the latency of a command (00_scope.md R8, 70_reset_and_hazards.md R226). The model is untimed. -/
opaque LAT : Nat

/-- `HANDSHAKE` (00_scope.md R8, 20_memory.md R48): where the block sits in a host's address map, if it is
memory-mapped at all. The signals themselves have no model. -/
opaque HANDSHAKE : Option Nat

end Sys2Proof.Config
end

