-- ==== Sys2Proof/Laws/Decode.lean ====
section
/-! SUPPORT. The fields of a command word built from its two fields, and the fields of a zero-extended operand. -/

namespace Sys2Proof

open Sys2Proof.Machine

@[simp] theorem opcodeField_commandWord (op : Byte) (arg : Word) : opcodeField (commandWord op arg) = op := by
  apply BitVec.eq_of_getLsbD_eq
  intro i hi
  simp only [opcodeField, commandWord, BitVec.getLsbD_extractLsb', BitVec.getLsbD_append]
  simp [hi]

@[simp] theorem argField_commandWord (op : Byte) (arg : Word) : argField (commandWord op arg) = arg := by
  apply BitVec.eq_of_getLsbD_eq
  intro i hi
  simp only [argField, commandWord, BitVec.getLsbD_extractLsb', BitVec.getLsbD_append]
  simp [hi]

/-- A command word is its two fields. -/
theorem commandWord_fields (w : CommandWord) : commandWord (opcodeField w) (argField w) = w := by
  apply BitVec.eq_of_getLsbD_eq
  intro i hi
  simp only [opcodeField, argField, commandWord, BitVec.getLsbD_extractLsb', BitVec.getLsbD_append]
  by_cases h : i < 32
  · simp [h]
  · have : i - 32 < 8 := by omega
    have hsum : 32 + (i - 32) = i := by omega
    simp [h, this, hsum]

@[simp] theorem byteOperand_zext32 (b : Byte) : byteOperand (zext32 b) = b := by
  apply BitVec.eq_of_getLsbD_eq
  intro i hi
  simp only [byteOperand, zext32, BitVec.getLsbD_extractLsb', BitVec.getLsbD_setWidth]
  have : i < 32 := by omega
  simp [hi, this]

@[simp] theorem idxOperand_zext32 (i : Index) : idxOperand (zext32 i) = i := by
  apply BitVec.eq_of_getLsbD_eq
  intro k hk
  simp only [idxOperand, zext32, BitVec.getLsbD_extractLsb', BitVec.getLsbD_setWidth]
  have : k < 32 := by omega
  simp [hk, this]

end Sys2Proof
end

