-- ==== Sys2Proof/Laws/State.lean ====
section
/-! SUPPORT. One lemma per field of State per update, each true by definition, so that no later proof unfolds an update. -/

namespace Sys2Proof.Machine

section Updates

variable (s : State) (ok : Bool) (data v : Word) (code : Byte) (w : CommandWord) (actions : List HostAction)

@[simp] theorem State.respond_crcState : (s.respond ok data).crcState = s.crcState := rfl
@[simp] theorem State.respond_u8State : (s.respond ok data).u8State = s.u8State := rfl
@[simp] theorem State.respond_phase : (s.respond ok data).phase = s.phase := rfl
@[simp] theorem State.respond_host : (s.respond ok data).host = s.host := rfl
@[simp] theorem State.respond_responses : (s.respond ok data).responses = s.responses ++ [⟨ok, data⟩] := rfl

@[simp] theorem State.writeCrc_crcState : (s.writeCrc v).crcState = v := rfl
@[simp] theorem State.writeCrc_u8State : (s.writeCrc v).u8State = s.u8State := rfl
@[simp] theorem State.writeCrc_phase : (s.writeCrc v).phase = s.phase := rfl
@[simp] theorem State.writeCrc_host : (s.writeCrc v).host = s.host := rfl
@[simp] theorem State.writeCrc_responses : (s.writeCrc v).responses = s.responses := rfl

@[simp] theorem State.writeU8_crcState : (s.writeU8 code).crcState = s.crcState := rfl
@[simp] theorem State.writeU8_u8State : (s.writeU8 code).u8State = code := rfl
@[simp] theorem State.writeU8_phase : (s.writeU8 code).phase = s.phase := rfl
@[simp] theorem State.writeU8_host : (s.writeU8 code).host = s.host := rfl
@[simp] theorem State.writeU8_responses : (s.writeU8 code).responses = s.responses := rfl

@[simp] theorem State.applyReset_crcState : s.applyReset.crcState = 0xFFFFFFFF#32 := rfl
@[simp] theorem State.applyReset_u8State : s.applyReset.u8State = 0#8 := rfl
@[simp] theorem State.applyReset_phase : s.applyReset.phase = .ready := rfl
@[simp] theorem State.applyReset_host : s.applyReset.host = s.host := rfl
@[simp] theorem State.applyReset_responses : s.applyReset.responses = s.responses := rfl

@[simp] theorem State.issueWord_crcState : (s.issueWord w).crcState = s.crcState := rfl
@[simp] theorem State.issueWord_u8State : (s.issueWord w).u8State = s.u8State := rfl
@[simp] theorem State.issueWord_phase : (s.issueWord w).phase = s.phase := rfl
@[simp] theorem State.issueWord_host : (s.issueWord w).host = .command w :: s.host := rfl
@[simp] theorem State.issueWord_responses : (s.issueWord w).responses = s.responses := rfl

@[simp] theorem State.powerOn_crcState : (State.powerOn v code actions).crcState = v := rfl
@[simp] theorem State.powerOn_u8State : (State.powerOn v code actions).u8State = code := rfl
@[simp] theorem State.powerOn_phase : (State.powerOn v code actions).phase = .beforeReset := rfl
@[simp] theorem State.powerOn_host : (State.powerOn v code actions).host = actions := rfl
@[simp] theorem State.powerOn_responses : (State.powerOn v code actions).responses = [] := rfl

end Updates

end Sys2Proof.Machine
end

