-- ==== Sys2Proof/Laws/Ops.lean ====
section
/-! SUPPORT. Each shared operation, said once: what it answers after the first reset, what it answers before it, and the
inversion of a next state. -/

namespace Sys2Proof.Machine

section Answers

variable {s t : State} {f : Word → Word} {g : Word → Word} {h : Byte → Option Byte} {k : Byte → Word}
  {cause : IllegalCause} {answer : Result}

@[simp] theorem onceReset_ready (hs : s.phase = .ready) : onceReset s answer = answer := by
  simp [onceReset, hs]

@[simp] theorem onceReset_beforeReset (hs : s.phase = .beforeReset) :
    onceReset s answer = .fault .commandBeforeReset := by
  simp [onceReset, hs]

/-- A next state comes only from a block that has been reset. -/
theorem onceReset_eq_next (hn : onceReset s answer = .next t) : s.phase = .ready ∧ answer = .next t := by
  cases hp : s.phase <;> simp [onceReset, hp] at hn ⊢
  exact hn

theorem raiseIllegal_ready (hs : s.phase = .ready) :
    raiseIllegal cause s = .next (s.respond false (causeCode cause)) := by
  simp [raiseIllegal, hs]

theorem raiseIllegal_eq_next (hn : raiseIllegal cause s = .next t) :
    s.phase = .ready ∧ t = s.respond false (causeCode cause) := by
  obtain ⟨hs, hn⟩ := onceReset_eq_next hn
  exact ⟨hs, by simpa using hn.symm⟩

theorem ceUpdate_ready (hs : s.phase = .ready) :
    ceUpdate f s = .next ((s.writeCrc (f s.crcState)).respond true (finalised (f s.crcState))) := by
  simp [ceUpdate, hs]

theorem ceUpdate_eq_next (hn : ceUpdate f s = .next t) :
    s.phase = .ready ∧ t = (s.writeCrc (f s.crcState)).respond true (finalised (f s.crcState)) := by
  obtain ⟨hs, hn⟩ := onceReset_eq_next hn
  exact ⟨hs, by simpa using hn.symm⟩

theorem ceAnswer_ready (hs : s.phase = .ready) : ceAnswer g s = .next (s.respond true (g s.crcState)) := by
  simp [ceAnswer, hs]

theorem ceAnswer_eq_next (hn : ceAnswer g s = .next t) :
    s.phase = .ready ∧ t = s.respond true (g s.crcState) := by
  obtain ⟨hs, hn⟩ := onceReset_eq_next hn
  exact ⟨hs, by simpa using hn.symm⟩

theorem ueUpdate_ready {code : Byte} (hs : s.phase = .ready) (hc : h s.u8State = some code) :
    ueUpdate h s = .next ((s.writeU8 code).respond true (statusWord code)) := by
  simp [ueUpdate, hs, hc]

theorem ueUpdate_undefined (hs : s.phase = .ready) (hc : h s.u8State = none) :
    ueUpdate h s = .fault .tableIndexUndefined := by
  simp [ueUpdate, hs, hc]

theorem ueUpdate_eq_next (hn : ueUpdate h s = .next t) :
    s.phase = .ready ∧ ∃ code, h s.u8State = some code ∧ t = (s.writeU8 code).respond true (statusWord code) := by
  obtain ⟨hs, hn⟩ := onceReset_eq_next hn
  cases hc : h s.u8State with
  | none => simp [hc] at hn
  | some code => exact ⟨hs, code, rfl, by simpa [hc] using hn.symm⟩

theorem ueAnswer_ready (hs : s.phase = .ready) : ueAnswer k s = .next (s.respond true (k s.u8State)) := by
  simp [ueAnswer, hs]

theorem ueAnswer_eq_next (hn : ueAnswer k s = .next t) :
    s.phase = .ready ∧ t = s.respond true (k s.u8State) := by
  obtain ⟨hs, hn⟩ := onceReset_eq_next hn
  exact ⟨hs, by simpa using hn.symm⟩

end Answers

end Sys2Proof.Machine
end

