-- ==== Sys2Proof/Laws/Engines.lean ====
section
/-! SUPPORT. The engines' byte steps: a legal code steps to a legal code, steps over a concatenation, and what every executed
command leaves alone on the host's side. -/

namespace Sys2Proof.Machine

theorem legalStateCode_iff (code : Byte) : legalStateCode code = true ↔ code ∈ stateCodes := by
  simp [legalStateCode]

/-- From a legal code every byte steps to a legal code: the table read is never out of range (20_memory.md R41). -/
theorem u8Step_legal (code b : Byte) (h : legalStateCode code = true) :
    ∃ next, u8Step code b = some next ∧ legalStateCode next = true := by
  have all : ∀ c ∈ stateCodes, ∀ k : Fin 256,
      ((u8Step c (BitVec.ofFin k)).any legalStateCode) = true := by decide +kernel
  have hb := all code ((legalStateCode_iff code).1 h) b.toFin
  rw [BitVec.ofFin_toFin] at hb
  cases hs : u8Step code b with
  | none => rw [hs] at hb; cases hb
  | some next => rw [hs] at hb; exact ⟨next, rfl, hb⟩

theorem crcSteps_append (crc : Word) (a b : List Byte) : crcSteps crc (a ++ b) = crcSteps (crcSteps crc a) b := by
  induction a generalizing crc with
  | nil => rfl
  | cons x a ih => exact ih (crcStep crc x)

theorem u8Steps_append (code : Byte) (a b : List Byte) :
    u8Steps code (a ++ b) = (u8Steps code a).bind (fun next => u8Steps next b) := by
  induction a generalizing code with
  | nil => rfl
  | cons x a ih =>
    simp only [List.cons_append, u8Steps]
    cases u8Step code x with
    | none => rfl
    | some next => exact ih next

/-- A command that answers a next state leaves the host's actions as they were. -/
theorem exec_keeps_host {i : Instr} {s t : State} (h : exec i s = .next t) : t.host = s.host := by
  cases i with
  | nop => obtain ⟨_, h⟩ := onceReset_eq_next h; cases h; rfl
  | crcSeed word => simp only [exec, execCrcSeed] at h; rw [(ceUpdate_eq_next h).2]; rfl
  | crcFeed8 byte => simp only [exec, execCrcFeed8] at h; rw [(ceUpdate_eq_next h).2]; rfl
  | crcFeed32 word => simp only [exec, execCrcFeed32] at h; rw [(ceUpdate_eq_next h).2]; rfl
  | crcRead => simp only [exec, execCrcRead] at h; rw [(ceAnswer_eq_next h).2]; rfl
  | crcCheck => simp only [exec, execCrcCheck] at h; rw [(ceAnswer_eq_next h).2]; rfl
  | crcTable byte => simp only [exec, execCrcTable] at h; rw [(ceAnswer_eq_next h).2]; rfl
  | u8Clear => simp only [exec, execU8Clear] at h; obtain ⟨_, _, _, rfl⟩ := ueUpdate_eq_next h; rfl
  | u8Load byte =>
    simp only [exec, execU8Load] at h
    split at h
    · obtain ⟨_, _, _, rfl⟩ := ueUpdate_eq_next h; rfl
    · rw [(raiseIllegal_eq_next h).2]; rfl
  | u8Feed8 byte => simp only [exec, execU8Feed8] at h; obtain ⟨_, _, _, rfl⟩ := ueUpdate_eq_next h; rfl
  | u8Status => simp only [exec, execU8Status] at h; rw [(ueAnswer_eq_next h).2]; rfl
  | u8Class idx => simp only [exec, execU8Class] at h; rw [(ueAnswer_eq_next h).2]; rfl
  | u8Trans idx =>
    simp only [exec, execU8Trans] at h
    split at h
    · rw [(ueAnswer_eq_next h).2]; rfl
    · rw [(raiseIllegal_eq_next h).2]; rfl

end Sys2Proof.Machine
end

