-- ==== Sys2Proof/Laws/PerInstr.lean ====
section
/-! SUPPORT. The family EncodedFields, one lemma per constructor: the word that encode gives a command holds the command's
opcode, and sets no argument bit that the command's format reserves. -/

namespace Sys2Proof.Laws.EncodedFields

open Sys2Proof Sys2Proof.Machine

/-- The opcode and the reserved bits of an encoded command. -/
def Statement (i : Instr) : Prop :=
  opcodeField (encode i) = opcodeOf i ∧ argField (encode i) &&& reservedMask (formatOf i) = 0#32

theorem reserved_byte (b : Byte) : zext32 b &&& 0xFFFFFF00#32 = 0#32 := by
  apply BitVec.eq_of_getLsbD_eq
  intro i hi
  have low : ∀ k < 8, (0xFFFFFF00#32).getLsbD k = false := by decide
  simp only [zext32, BitVec.getLsbD_and, BitVec.getLsbD_setWidth]
  by_cases h : i < 8
  · simp [low i h]
  · simp [BitVec.getLsbD_of_ge b i (by omega)]

theorem reserved_idx (x : Index) : zext32 x &&& 0xFFFFFF80#32 = 0#32 := by
  apply BitVec.eq_of_getLsbD_eq
  intro i hi
  have low : ∀ k < 7, (0xFFFFFF80#32).getLsbD k = false := by decide
  simp only [zext32, BitVec.getLsbD_and, BitVec.getLsbD_setWidth]
  by_cases h : i < 7
  · simp [low i h]
  · simp [BitVec.getLsbD_of_ge x i (by omega)]

theorem nop : Statement .nop := ⟨by decide, by decide⟩
theorem crcSeed (word : Word) : Statement (.crcSeed word) := by simp [Statement, encode, formatOf, reservedMask]
theorem crcFeed8 (byte : Byte) : Statement (.crcFeed8 byte) := by
  simp [Statement, encode, formatOf, reservedMask, argOf, reserved_byte]
theorem crcFeed32 (word : Word) : Statement (.crcFeed32 word) := by simp [Statement, encode, formatOf, reservedMask]
theorem crcRead : Statement .crcRead := ⟨by decide, by decide⟩
theorem crcCheck : Statement .crcCheck := ⟨by decide, by decide⟩
theorem crcTable (byte : Byte) : Statement (.crcTable byte) := by
  simp [Statement, encode, formatOf, reservedMask, argOf, reserved_byte]
theorem u8Clear : Statement .u8Clear := ⟨by decide, by decide⟩
theorem u8Load (byte : Byte) : Statement (.u8Load byte) := by
  simp [Statement, encode, formatOf, reservedMask, argOf, reserved_byte]
theorem u8Feed8 (byte : Byte) : Statement (.u8Feed8 byte) := by
  simp [Statement, encode, formatOf, reservedMask, argOf, reserved_byte]
theorem u8Status : Statement .u8Status := ⟨by decide, by decide⟩
theorem u8Class (idx : Index) : Statement (.u8Class idx) := by
  simp [Statement, encode, formatOf, reservedMask, argOf, reserved_idx]
theorem u8Trans (idx : Index) : Statement (.u8Trans idx) := by
  simp [Statement, encode, formatOf, reservedMask, argOf, reserved_idx]

end Sys2Proof.Laws.EncodedFields
end

