-- ==== Sys2Proof/Laws/Run.lean ====
section
/-! SUPPORT. The step, said once by what the host does next; and the host's own runner of a machine is runSteps. -/

namespace Sys2Proof.Machine

section Steps

variable {s : State} {rest : List HostAction} {w : CommandWord} {i : Instr} {cause : IllegalCause}

theorem step_waiting (h : s.host = []) : step s = .next s := by
  simp [step, hostStep, h, waitAtPort]

theorem step_reset (h : s.host = .reset :: rest) : step s = .next { s with host := rest }.applyReset := by
  simp [step, hostStep, h, takeReset]

theorem step_legal (h : s.host = .command w :: rest) (hd : decode w = .ok i) :
    step s = exec i { s with host := rest } := by
  simp [step, hostStep, h, hd]

theorem step_illegal (h : s.host = .command w :: rest) (hd : decode w = .error cause) :
    step s = raiseIllegal cause { s with host := rest } := by
  simp [step, hostStep, h, hd]

theorem runSteps_succ (n : Nat) (s : State) :
    runSteps (n + 1) s =
      match step s with
      | .next t => runSteps n t
      | .fault r => .fault r
      | .refused r => .refused r := rfl

theorem runSteps_next {n : Nat} {t : State} (h : step s = .next t) : runSteps (n + 1) s = runSteps n t := by
  rw [runSteps_succ, h]

/-- Two runs one after the other are one run. -/
theorem runSteps_add {m n : Nat} {t : State} (h : runSteps m s = .next t) : runSteps (m + n) s = runSteps n t := by
  induction m generalizing s with
  | zero =>
    cases h
    rw [Nat.zero_add]
  | succ m ih =>
    rw [runSteps_succ] at h
    rw [Nat.succ_add_eq_add_succ, Nat.add_succ, runSteps_succ]
    cases hs : step s with
    | next u => rw [hs] at h; exact ih h
    | fault r => rw [hs] at h; cases h
    | refused r => rw [hs] at h; cases h

/-- The host's runner and runSteps are the same function. -/
theorem core_run_eq_runSteps (n : Nat) (s : Sys2Proof.core.State) : Sys2Proof.core.run n s = runSteps n s := by
  induction n generalizing s with
  | zero => rfl
  | succ n ih =>
    have hs : Sys2Proof.core.step s = step s := rfl
    refine Eq.trans ?_ (runSteps_succ n s).symm
    unfold Host.Core.run
    rw [hs]
    cases step s with
    | next t => exact ih t
    | fault r => rfl
    | refused r => rfl

end Steps

end Sys2Proof.Machine
end

