-- ==== Sys2Proof/Tests/Slice0.lean ====
section
/-! SUPPORT. The model's own tests. Every expected value is the spec's: the examples of the command rules and the vectors of
95_test_vectors.md, named at each group. Then the witnesses that the statements' hypotheses can be met. -/

namespace Sys2Proof.Tests

open Sys2Proof Sys2Proof.Machine

/-! ## Well-formedness: the two checks refuse -/

theorem test_wellFormed_refuses_u8Load_12 : (Instr.u8Load 12#8).wellFormed = false := by decide
theorem test_wellFormed_refuses_u8Trans_88 : (Instr.u8Trans 88#7).wellFormed = false := by decide
theorem test_wellFormed_accepts_u8Load_88 : (Instr.u8Load 88#8).wellFormed = true := by decide
theorem test_wellFormed_accepts_u8Trans_87 : (Instr.u8Trans 87#7).wellFormed = true := by decide

/-! ## Decoding, one word written out per command (30_encoding.md R62, R64): opcode bits, then argument bits -/

theorem test_decode_nop :
    decode 0b00000000_00000000_00000000_00000000_00000000#40 = .ok .nop := by decide
theorem test_decode_crcSeed :
    decode 0b00010000_00010010_00110100_01010110_01111000#40 = .ok (.crcSeed 0x12345678#32) := by decide
theorem test_decode_crcFeed8 :
    decode 0b00010001_00000000_00000000_00000000_01101000#40 = .ok (.crcFeed8 0x68#8) := by decide
theorem test_decode_crcFeed32 :
    decode 0b00010010_00110100_00110011_00110010_00110001#40 = .ok (.crcFeed32 0x34333231#32) := by decide
theorem test_decode_crcRead :
    decode 0b00010011_00000000_00000000_00000000_00000000#40 = .ok .crcRead := by decide
theorem test_decode_crcCheck :
    decode 0b00010100_00000000_00000000_00000000_00000000#40 = .ok .crcCheck := by decide
theorem test_decode_crcTable :
    decode 0b00010101_00000000_00000000_00000000_10000000#40 = .ok (.crcTable 0x80#8) := by decide
theorem test_decode_u8Clear :
    decode 0b00100000_00000000_00000000_00000000_00000000#40 = .ok .u8Clear := by decide
theorem test_decode_u8Load :
    decode 0b00100001_00000000_00000000_00000000_00100001#40 = .ok (.u8Load 33#8) := by decide
theorem test_decode_u8Feed8 :
    decode 0b00100010_00000000_00000000_00000000_11100010#40 = .ok (.u8Feed8 0xE2#8) := by decide
theorem test_decode_u8Status :
    decode 0b00100011_00000000_00000000_00000000_00000000#40 = .ok .u8Status := by decide
theorem test_decode_u8Class :
    decode 0b00100100_00000000_00000000_00000000_01101101#40 = .ok (.u8Class 0x6D#7) := by decide
theorem test_decode_u8Trans :
    decode 0b00100101_00000000_00000000_00000000_00000011#40 = .ok (.u8Trans 3#7) := by decide

/-! Illegal words and their causes (95_test_vectors.md V-MISC, V-CRC-CMD, V-U8-CMD, V-U8-TRANS). -/

theorem test_decode_unassigned :
    decode 0x0100000000#40 = .error .illegalOpcode ∧ decode 0x0F00000000#40 = .error .illegalOpcode ∧
    decode 0x1600000000#40 = .error .illegalOpcode ∧ decode 0x1F00000000#40 = .error .illegalOpcode ∧
    decode 0x2600000000#40 = .error .illegalOpcode ∧ decode 0xFFFFFFFFFF#40 = .error .illegalOpcode := by decide
theorem test_decode_reserved :
    decode 0x0000000001#40 = .error .illegalReserved ∧ decode 0x1100000100#40 = .error .illegalReserved ∧
    decode 0x1480000000#40 = .error .illegalReserved ∧ decode 0x2400000080#40 = .error .illegalReserved := by decide
theorem test_decode_range :
    decode 0x210000000C#40 = .error .illegalRange ∧ decode 0x2100000059#40 = .error .illegalRange ∧
    decode 0x2500000058#40 = .error .illegalRange ∧ decode 0x250000007F#40 = .error .illegalRange := by decide
theorem test_decode_reserved_before_range :
    decode 0x2100000190#40 = .error .illegalReserved ∧ decode 0x2500000158#40 = .error .illegalReserved := by decide

theorem test_decodeTableWord : decodeTableWord 40 0x1100000068 = some (.crcFeed8 0x68#8) := by decide
theorem test_encode_crcFeed8 : encode (.crcFeed8 0x68#8) = 0x1100000068#40 := by decide
theorem test_encode_u8Trans : encode (.u8Trans 87#7) = 0x2500000057#40 := by decide

/-! ## One step per command -/

/-- A block after reset with the given registers and host actions, and no response yet. -/
def readyState (crc : Word) (code : Byte) (host : List HostAction) : State :=
  { crcState := crc, u8State := code, phase := .ready, host := host, responses := [] }

/-- The registers and the response after one step on one command word. -/
def afterWord (crc : Word) (code : Byte) (w : CommandWord) : Option (Word × Byte × List Response) :=
  match step (readyState crc code [.command w]) with
  | .next t => some (t.crcState, t.u8State, t.responses)
  | .fault _ => none
  | .refused _ => none

/-- 42_misc.md R180. -/
theorem test_nop : afterWord 0x3E2FBCCF#32 0#8 0x0000000000#40 =
    some (0x3E2FBCCF#32, 0#8, [⟨true, 0#32⟩]) := by decide
theorem test_nop_reserved : afterWord 0x3E2FBCCF#32 11#8 0x0000000001#40 =
    some (0x3E2FBCCF#32, 11#8, [⟨false, 2#32⟩]) := by decide
/-- 40_crc32c.md R110. -/
theorem test_crcSeed : afterWord 0xFFFFFFFF#32 33#8 0x1012345678#40 =
    some (0xEDCBA987#32, 33#8, [⟨true, 0x12345678#32⟩]) := by decide
/-- 40_crc32c.md R111. -/
theorem test_crcFeed8 : afterWord 0xFFFFFFFF#32 0#8 0x1100000068#40 =
    some (0x469D6703#32, 0#8, [⟨true, 0xB96298FC#32⟩]) := by decide
theorem test_crcFeed8_last_entry : afterWord 0xFFFFFFFF#32 0#8 0x1100000000#40 =
    some (0xAD82ACAE#32, 0#8, [⟨true, 0x527D5351#32⟩]) := by decide
/-- 40_crc32c.md R112. -/
theorem test_crcFeed32 : afterWord 0xFFFFFFFF#32 0#8 0x1234333231#40 =
    some (0x09C50B11#32, 0#8, [⟨true, 0xF63AF4EE#32⟩]) := by decide
/-- 95_test_vectors.md V-CRC-CMD. -/
theorem test_crcFeed32_trailer : afterWord 0x5A7F6B80#32 0#8 0x12A580947F#40 =
    some (0xB798B438#32, 0#8, [⟨true, 0x48674BC7#32⟩]) := by decide
/-- 40_crc32c.md R113, last row of the trace in V-CRC-KNOWN. -/
theorem test_crcRead : afterWord 0x1CF96D7C#32 0#8 0x1300000000#40 =
    some (0x1CF96D7C#32, 0#8, [⟨true, 0xE3069283#32⟩]) := by decide
/-- 95_test_vectors.md V-CRC-CMD. -/
theorem test_crcCheck_passes : afterWord 0xB798B438#32 0#8 0x1400000000#40 =
    some (0xB798B438#32, 0#8, [⟨true, 1#32⟩]) := by decide
theorem test_crcCheck_one_bit_off : afterWord 0xB798B439#32 0#8 0x1400000000#40 =
    some (0xB798B439#32, 0#8, [⟨true, 0#32⟩]) := by decide
/-- 95_test_vectors.md V-CRC-TABLE. -/
theorem test_crcTable_middle : afterWord 0#32 0#8 0x15000000AA#40 =
    some (0#32, 0#8, [⟨true, 0xC9A99D9E#32⟩]) := by decide
theorem test_crcTable_last : afterWord 0#32 0#8 0x15000000FF#40 =
    some (0#32, 0#8, [⟨true, 0xAD7D5351#32⟩]) := by decide
/-- 41_utf8_dfa.md R151. -/
theorem test_u8Clear : afterWord 5#32 88#8 0x2000000000#40 =
    some (5#32, 0#8, [⟨true, 0x00000003#32⟩]) := by decide
/-- 41_utf8_dfa.md R152. -/
theorem test_u8Load : afterWord 5#32 0#8 0x2100000021#40 =
    some (5#32, 33#8, [⟨true, 0x00002102#32⟩]) := by decide
theorem test_u8Load_illegal : afterWord 5#32 66#8 0x210000000C#40 =
    some (5#32, 66#8, [⟨false, 3#32⟩]) := by decide
/-- 41_utf8_dfa.md R153 and V-U8-CMD. -/
theorem test_u8Feed8_lead : afterWord 5#32 0#8 0x22000000E2#40 =
    some (5#32, 33#8, [⟨true, 0x00002102#32⟩]) := by decide
theorem test_u8Feed8_above_scalar_range : afterWord 5#32 77#8 0x2200000090#40 =
    some (5#32, 88#8, [⟨true, 0x00005800#32⟩]) := by decide
/-- 95_test_vectors.md V-U8-CMD. -/
theorem test_u8Status : afterWord 5#32 66#8 0x2300000000#40 =
    some (5#32, 66#8, [⟨true, 0x00004202#32⟩]) := by decide
/-- 41_utf8_dfa.md R155. -/
theorem test_u8Class : afterWord 5#32 66#8 0x240000006D#40 =
    some (5#32, 66#8, [⟨true, 3#32⟩]) := by decide
theorem test_u8Class_error : afterWord 5#32 66#8 0x2400000040#40 =
    some (5#32, 66#8, [⟨true, 10#32⟩]) := by decide
/-- 41_utf8_dfa.md R156 and V-U8-TRANS. -/
theorem test_u8Trans : afterWord 5#32 66#8 0x2500000003#40 =
    some (5#32, 66#8, [⟨true, 44#32⟩]) := by decide
theorem test_u8Trans_last : afterWord 5#32 66#8 0x2500000057#40 =
    some (5#32, 66#8, [⟨true, 88#32⟩]) := by decide

/-- 70_reset_and_hazards.md R220. -/
theorem test_reset_signal : step (readyState 5#32 66#8 [.reset]) = .next (readyState 0xFFFFFFFF#32 0#8 []) := rfl
/-- 70_reset_and_hazards.md R221. -/
theorem test_command_before_reset :
    step (State.powerOn 5#32 66#8 [.command 0#40]) = .fault .commandBeforeReset := rfl
/-- The word that withFetchWord places is the next one taken (log entry 9). -/
theorem test_withFetchWord : (State.reset.withFetchWord 40 0x1100000068).host = [.command 0x1100000068#40] := by decide

/-! ## The reference functions (95_test_vectors.md E1-E12; 93_implementation_defined.md G2) -/

theorem test_crcTableEntry_polynomial : crcTableEntry 0x80#8 = 0x82F63B78#32 := by decide
theorem test_crcTableEntry_last : crcTableEntry 0xFF#8 = 0xAD7D5351#32 := by decide
theorem test_crc32cUpdate_abc : crc32cUpdate 0#32 [0x61#8, 0x62#8, 0x63#8] = 0x364B3FB7#32 := by decide
theorem test_isValidUtf8_euro : isValidUtf8 [0xE2#8, 0x82#8, 0xAC#8] = true := by decide
theorem test_isValidUtf8_truncated :
    isValidUtf8 [0xE2#8, 0x82#8] = false ∧ isValidUtf8Prefix [0xE2#8, 0x82#8] = true := by decide
theorem test_isValidUtf8_surrogate : isValidUtf8Prefix [0xED#8, 0xA0#8] = false := by decide
theorem test_encodeScalar_euro : encodeScalar 0x20AC#21 = [0xE2#8, 0x82#8, 0xAC#8] := by decide
theorem test_encodeScalar_last : encodeScalar 0x10FFFF#21 = [0xF4#8, 0x8F#8, 0xBF#8, 0xBF#8] := by decide
theorem test_assemble_decimal : assembleLine "  U8_TRANS 87 ; last".toList = some [.u8Trans 87#7] := by decide
theorem test_assemble_too_big : assembleLine "U8_CLASS 128".toList = none := by decide
theorem test_assemble_illegal_code_is_spelled :
    (assembleLine "U8_LOAD 12".toList).map (fun is => is.map encode) = some [0x210000000C#40] := by decide
theorem test_assemble_pseudo :
    assembleLine "U8_VALIDATE 0xC3, 0xA9".toList = some [.u8Clear, .u8Feed8 0xC3#8, .u8Feed8 0xA9#8, .u8Status] := by
  decide
/-- The model's choice (log entry 13): 30_encoding.md R69 gives the quoted form for CRC_FEEDN and U8_FEEDN only. -/
theorem test_assemble_quoted_validate :
    assembleLine "U8_VALIDATE \"A\"".toList = some [.u8Clear, .u8Feed8 0x41#8, .u8Status] := by decide
theorem test_assemble_quoted :
    assembleLine "CRC_FEEDN \"he;\" ; two".toList =
      some [.crcFeed8 0x68#8, .crcFeed8 0x65#8, .crcFeed8 0x3B#8] := by decide

/-! ## Witnesses: the hypotheses of each statement can be met, together and clause by clause -/

theorem witness_ResetWritesTheResetValues : ∃ s rest, State.host s = .reset :: rest :=
  ⟨State.powerOn 5#32 7#8 [.reset], [], rfl⟩
theorem witness_BlockWaitsForTheHost : State.reset.host = [] := rfl
theorem witness_CommandBeforeResetIsHostFault :
    (State.powerOn 5#32 7#8 [.command 0#40]).phase = .beforeReset ∧
    (State.powerOn 5#32 7#8 [.command 0#40]).host = .command 0#40 :: [] := ⟨rfl, rfl⟩
theorem witness_StepRunsTheDecodedCommand :
    (readyState 0#32 0#8 [.command 0x1300000000#40]).host = [.command 0x1300000000#40] ∧
    decode 0x1300000000#40 = .ok .crcRead := by decide

/-- Each clause of IllegalCommandReportsItsCause at the edges of its ranges. -/
theorem witness_IllegalCommand_opcode : ∀ op ∈ [0x01#8, 0x0F#8, 0x16#8, 0x1F#8, 0x26#8, 0xFF#8],
    opcodeUnassigned (opcodeField (commandWord op 0#32)) := by decide
theorem witness_IllegalCommand_reserved :
    ∀ w ∈ [0x0000000001#40, 0x1100000100#40, 0x1180000000#40, 0x2400000080#40, 0x2500000158#40],
      ¬ opcodeUnassigned (opcodeField w) ∧ reservedBitSet (opcodeField w) (argField w) := by
  intro w hw
  fin_cases hw <;> decide
theorem witness_IllegalCommand_range :
    ∀ w ∈ [0x2100000001#40, 0x2100000059#40, 0x21000000FF#40, 0x2500000058#40, 0x250000007F#40],
      ¬ opcodeUnassigned (opcodeField w) ∧ ¬ reservedBitSet (opcodeField w) (argField w) ∧
        operandOutOfRange (opcodeField w) (argField w) := by
  intro w hw
  fin_cases hw <;> decide
theorem witness_DecodeFollows_legal :
    ∀ w ∈ [0x0000000000#40, 0x10FFFFFFFF#40, 0x15000000FF#40, 0x2100000058#40, 0x240000007F#40, 0x2500000057#40],
      ¬ opcodeUnassigned (opcodeField w) ∧ ¬ reservedBitSet (opcodeField w) (argField w) ∧
        ¬ operandOutOfRange (opcodeField w) (argField w) := by
  intro w hw
  fin_cases hw <;> decide

theorem witness_NextCommandUnaffected_next :
    (readyState 0#32 0#8 []).phase = .ready ∧ decode 0x0100000000#40 = .error .illegalOpcode ∧
    step { readyState 0#32 0#8 [] with host := [.reset] } = .next (readyState 0xFFFFFFFF#32 0#8 []) :=
  ⟨rfl, by decide, rfl⟩
theorem witness_NextCommandUnaffected_fault :
    step { readyState 0#32 0xFF#8 [] with host := [.command 0x2200000080#40] } = .fault .tableIndexUndefined := rfl
theorem witness_EveryCommandIsAnsweredExactlyOnce :
    (State.powerOn 5#32 7#8 [.reset, .command 0#40]).Inv ∧
    (State.powerOn 5#32 7#8 [.reset, .command 0#40]).hostResetsFirst :=
  ⟨by decide, .inr (.inr ⟨[.command 0#40], rfl⟩)⟩
theorem witness_HostThatResetsFirst_ready : State.reset.Inv ∧ State.reset.hostResetsFirst := ⟨by decide, .inl rfl⟩
theorem witness_DecodeOfEncodeIsTheCommand : (Instr.u8Trans 87#7).wellFormed = true := by decide
theorem witness_EncodeOfDecodeIsTheWord : decode 0x2500000057#40 = .ok (.u8Trans 87#7) := by decide
theorem witness_EveryStepKeepsLegalCode :
    (readyState 5#32 66#8 [.reset]).Inv ∧
    step (readyState 5#32 66#8 [.reset]) = .next (readyState 0xFFFFFFFF#32 0#8 []) := ⟨by decide, rfl⟩

/-- A CE command, a UE command and NOP, for both clauses of NoCommandTouchesTheOtherEngine; CRC_READ is a read command. -/
theorem witness_NoCommandTouches_ce :
    exec (.crcSeed 0#32) (readyState 0#32 66#8 []) =
      .next ((readyState 0#32 66#8 []).afterCommand [] (~~~ 0#32) 66#8 ⟨true, finalised (~~~ 0#32)⟩) ∧
    engineOf (.crcSeed 0#32) ≠ some .ue := ⟨rfl, by decide⟩
theorem witness_NoCommandTouches_ue :
    exec .u8Clear (readyState 5#32 66#8 []) =
      .next ((readyState 5#32 66#8 []).afterCommand [] 5#32 0#8 ⟨true, statusWord 0#8⟩) ∧
    engineOf .u8Clear ≠ some .ce := ⟨rfl, by decide⟩
theorem witness_ReadCommandsChangeNothing :
    isReadCommand .nop = true ∧
    exec .nop (readyState 5#32 66#8 []) =
      .next ((readyState 5#32 66#8 []).afterCommand [] 5#32 66#8 ⟨true, 0#32⟩) := ⟨rfl, rfl⟩

/-- The premises of the command statements' first clauses (NopAnswersZero to U8TransReadsBackOneEntry), and of
AppendedRecordPassesTheCheck, WordFeedIsFourByteFeeds and TableCallsReturnTheTables, at the edges: ready, with a legal code
and operands in range. -/
theorem witness_command_ready : (readyState 5#32 88#8 []).phase = .ready ∧ legalStateCode 88#8 = true ∧
    (88#8 : Byte).toNat ∈ [0, 11, 22, 33, 44, 55, 66, 77, 88] ∧ (87#7 : Index).toNat ≤ 87 := by decide
/-- The premises of their second clauses: a ready block whose host issues a word with the command's opcode. -/
theorem witness_command_word (op : Byte) (arg : Word) :
    (readyState 5#32 88#8 [.command (commandWord op arg)]).phase = .ready ∧
    (readyState 5#32 88#8 [.command (commandWord op arg)]).host = .command (commandWord op arg) :: [] := ⟨rfl, rfl⟩
/-- The premise of CRC_FEED32's first clause names the value its conclusion uses. -/
theorem witness_CrcFeed32 (crc : Word) (word : Word) : ∃ v : Word,
    v = crcStepByTable (crcStepByTable (crcStepByTable (crcStepByTable crc (word.extractLsb' 0 8))
      (word.extractLsb' 8 8)) (word.extractLsb' 16 8)) (word.extractLsb' 24 8) := ⟨_, rfl⟩
/-- The third clause of U8ClearStartsAStream: from error, U8_CLEAR leaves it. -/
theorem witness_U8Clear_from_error :
    (readyState 5#32 88#8 []).u8State = 88#8 ∧
    exec .u8Clear (readyState 5#32 88#8 []) =
      .next ((readyState 5#32 88#8 []).afterCommand [] 5#32 0#8 ⟨true, statusWord 0#8⟩) := ⟨rfl, rfl⟩
theorem witness_IllFormedOperandAnswersCauseThree :
    (Instr.u8Load 89#8).wellFormed = false ∧ (Instr.u8Trans 127#7).wellFormed = false := by decide
theorem witness_SaveAndRestoreAreExact :
    (readyState 5#32 88#8 []).phase = .ready ∧ legalStateCode (readyState 5#32 88#8 []).u8State = true := by decide
theorem witness_ReplacingByteFeedsByAWordFeed :
    (readyState 5#32 66#8 [.reset]).Inv ∧ (readyState 5#32 66#8 [.reset]).phase = .ready := by decide
theorem witness_EngineSequencesCommute : State.reset.Inv ∧ State.reset.phase = .ready := by decide
theorem witness_CrcStreamComputesTheReference :
    State.reset.Inv ∧ State.reset.phase = .ready ∧ (∀ i ∈ [Instr.u8Feed8 0x41#8, .crcFeed32 7#32, .nop, .crcFeed8 0xFF#8],
      i.wellFormed = true ∧ startsCrcMessage i = false) := by decide
theorem witness_Utf8StreamComputesTheReference :
    State.reset.phase = .ready ∧ ∀ i ∈ [Instr.crcFeed8 0x41#8, .u8Status, .nop, .u8Feed8 0xFF#8],
      i.wellFormed = true ∧ startsU8Stream i = false := by decide
theorem witness_Utf8Stream_error : u8Steps 0#8 [0xC0#8] = some 88#8 := by decide
theorem witness_StoredTransitionTable_entry : u8TransT 87 = some 88#8 ∧ u8TransT 88 = none := by decide
theorem witness_TransitionReadIsAlwaysInRange :
    legalStateCode 77#8 = true ∧ (77#8 : Byte) ≠ 88#8 ∧ (0x80#8 : Byte) ≤ 0xFF#8 := by decide
theorem witness_StatusWordFields : (11#8 : Byte) ≠ 0#8 ∧ (11#8 : Byte) ≠ 88#8 := by decide
/-- Each clause of ByteStepCornerCases at an edge of its range. -/
theorem witness_ByteStepCornerCases :
    legalStateCode 11#8 = true ∧ (0x7F#8 : Byte) < 0x80#8 ∧ (0xC2#8 : Byte) ≤ 0xF4#8 ∧ (0x80#8 : Byte) ≤ 0xBF#8 ∧
    (0xF5#8 : Byte) ≤ 0xF5#8 ∧ (0xA0#8 : Byte) ≤ 0xBF#8 := by decide
theorem witness_LenientValidator : isValidUtf8Prefix ([0xE2#8] ++ [0x82#8]) = true ∧ isValidUtf8 [0x41#8] = true := by
  decide
theorem witness_SourceUtf8Properties :
    isScalar 0x20AC#21 = true ∧ encodeScalar 0x20AC#21 = [0xE2#8] ++ [0x82#8, 0xAC#8] ∧ isScalar 0xD7FF#21 = true ∧
    isScalar 0xD800#21 = false ∧ (0xC0#8 : Byte) ∈ [0x41#8, 0xC0#8] ∧ ∀ b ∈ [0x00#8, 0x7F#8], b < 0x80#8 := by decide

end Sys2Proof.Tests
end

/-! The frame of every command (00_scope.md R3): each shared operation stays within one engine, and so does every
command. -/

namespace Sys2Proof.Machine

/-- A meaning addressed to `engine` (`none`: to neither) that answers a next state keeps the phase and the host's actions,
gives one response, and neither writes nor reads the register of an engine it is not addressed to (00_scope.md R3). -/
def StaysWithin (engine : Option Engine) (meaning : State → Result) : Prop :=
  ∀ s t : State, meaning s = .next t →
    t.phase = s.phase ∧ t.host = s.host ∧ (∃ r, t.responses = s.responses ++ [r]) ∧
    (engine ≠ some .ce → t.crcState = s.crcState ∧
      ∀ crc : Word, meaning { s with crcState := crc } = .next { t with crcState := crc }) ∧
    (engine ≠ some .ue → t.u8State = s.u8State ∧
      ∀ code : Byte, meaning { s with u8State := code } = .next { t with u8State := code })

/-- A fixed response reads and writes neither register, whichever engine gives it. -/
theorem respond_staysWithin (engine : Option Engine) (ok : Bool) (data : Word) :
    StaysWithin engine (fun s => onceReset s (.next (s.respond ok data))) := by
  intro s t h
  obtain ⟨hs, h⟩ := onceReset_eq_next h
  cases h
  exact ⟨rfl, rfl, ⟨_, rfl⟩, fun _ => ⟨rfl, fun _ => onceReset_ready hs⟩, fun _ => ⟨rfl, fun _ => onceReset_ready hs⟩⟩

theorem raiseIllegal_staysWithin (engine : Option Engine) (cause : IllegalCause) :
    StaysWithin engine (raiseIllegal cause) :=
  respond_staysWithin engine false (causeCode cause)

theorem ceUpdate_staysWithin (f : Word → Word) : StaysWithin (some .ce) (ceUpdate f) := by
  intro s t h
  obtain ⟨hs, rfl⟩ := ceUpdate_eq_next h
  exact ⟨rfl, rfl, ⟨_, rfl⟩, fun other => absurd rfl other, fun _ => ⟨rfl, fun _ => ceUpdate_ready hs⟩⟩

theorem ceAnswer_staysWithin (g : Word → Word) : StaysWithin (some .ce) (ceAnswer g) := by
  intro s t h
  obtain ⟨hs, rfl⟩ := ceAnswer_eq_next h
  exact ⟨rfl, rfl, ⟨_, rfl⟩, fun other => absurd rfl other, fun _ => ⟨rfl, fun _ => ceAnswer_ready hs⟩⟩

theorem ueUpdate_staysWithin (f : Byte → Option Byte) : StaysWithin (some .ue) (ueUpdate f) := by
  intro s t h
  obtain ⟨hs, code, hcode, rfl⟩ := ueUpdate_eq_next h
  exact ⟨rfl, rfl, ⟨_, rfl⟩, fun _ => ⟨rfl, fun _ => ueUpdate_ready hs hcode⟩, fun other => absurd rfl other⟩

theorem ueAnswer_staysWithin (g : Byte → Word) : StaysWithin (some .ue) (ueAnswer g) := by
  intro s t h
  obtain ⟨hs, rfl⟩ := ueAnswer_eq_next h
  exact ⟨rfl, rfl, ⟨_, rfl⟩, fun _ => ⟨rfl, fun _ => ueAnswer_ready hs⟩, fun other => absurd rfl other⟩

/-- U8_LOAD restores its code or answers cause 3 (41_utf8_dfa.md R152). -/
theorem execU8Load_staysWithin (byte : Byte) : StaysWithin (some .ue) (execU8Load byte) := by
  unfold execU8Load
  split
  · exact ueUpdate_staysWithin _
  · exact raiseIllegal_staysWithin _ _

/-- U8_TRANS answers its entry or cause 3 (41_utf8_dfa.md R156). -/
theorem execU8Trans_staysWithin (idx : Index) : StaysWithin (some .ue) (execU8Trans idx) := by
  unfold execU8Trans
  split
  · exact ueAnswer_staysWithin _
  · exact raiseIllegal_staysWithin _ _

/-- Every command stays within the engine that its row of 30_encoding.md R64 names. -/
theorem exec_staysWithin (i : Instr) : StaysWithin (engineOf i) (exec i) := by
  cases i with
  | nop => exact respond_staysWithin none true 0#32
  | crcSeed word => exact ceUpdate_staysWithin (fun _ => ~~~word)
  | crcFeed8 byte => exact ceUpdate_staysWithin (fun crc => crcStep crc byte)
  | crcFeed32 word => exact ceUpdate_staysWithin (fun crc => crcSteps crc (le32 word))
  | crcRead => exact ceAnswer_staysWithin finalised
  | crcCheck => exact ceAnswer_staysWithin checkWord
  | crcTable byte => exact ceAnswer_staysWithin (fun _ => crcT byte)
  | u8Clear => exact ueUpdate_staysWithin (fun _ => some acceptCode)
  | u8Load byte => exact execU8Load_staysWithin byte
  | u8Feed8 byte => exact ueUpdate_staysWithin (fun code => u8Step code byte)
  | u8Status => exact ueAnswer_staysWithin statusWord
  | u8Class idx => exact ueAnswer_staysWithin (fun _ => zext32 (u8ClassT idx))
  | u8Trans idx => exact execU8Trans_staysWithin idx

/-- Settles O19: each command is one shared operation, and each shared operation stays within its engine. -/
theorem noCommandTouchesTheOtherEngine : Obligations.NoCommandTouchesTheOtherEngine := by
  unfold Obligations.NoCommandTouchesTheOtherEngine
  exact exec_staysWithin

end Sys2Proof.Machine

/-! The two validators of the source as runs of the byte step (41_utf8_dfa.md R148, R149), and that an incomplete sequence
can be completed (R159). -/

namespace Sys2Proof.Machine

section ByteStep

variable {code b : Byte} {d : List Byte}

theorem errorCode_ne_acceptCode : errorCode ≠ acceptCode := by decide

theorem u8Step_error (b : Byte) : u8Step errorCode b = some errorCode := by
  simp [u8Step]

theorem u8Step_ascii_accept (hb : b < 0x80#8) : u8Step acceptCode b = some acceptCode := by
  simp [u8Step, hb, errorCode_ne_acceptCode.symm]

theorem u8Step_ascii_pending (hc : code ≠ acceptCode) (hb : b < 0x80#8) : u8Step code b = some errorCode := by
  simp [u8Step, hc, hb]

theorem u8Step_table (hc : code ≠ errorCode) (hb : ¬ b < 0x80#8) :
    u8Step code b = u8TransT (code.toNat + (u8ClassOf b).toNat) := by
  simp [u8Step, hc, hb]

/-- Error is absorbing over whole sequences (41_utf8_dfa.md R153). -/
theorem u8Steps_error (d : List Byte) : u8Steps errorCode d = some errorCode := by
  induction d with
  | nil => rfl
  | cons b d ih => simp [u8Steps, u8Step_error, ih]

/-- A sequence of bytes leads a legal code to a legal code. -/
theorem u8Steps_legal (d : List Byte) (hc : legalStateCode code = true) :
    ∃ next, u8Steps code d = some next ∧ legalStateCode next = true := by
  induction d generalizing code with
  | nil => exact ⟨code, rfl, hc⟩
  | cons b d ih =>
    obtain ⟨next, hstep, hnext⟩ := u8Step_legal code b hc
    obtain ⟨last, hlast, hlegal⟩ := ih hnext
    exact ⟨last, by simp [u8Steps, hstep, hlast], hlegal⟩

/-- From every legal code but error some sequence leads to accept: one for each stored row (41_utf8_dfa.md R146). -/
theorem u8Steps_reaches_accept (hc : legalStateCode code = true) (he : code ≠ errorCode) :
    ∃ e, u8Steps code e = some acceptCode := by
  have hmem : code ∈ stateCodes := (legalStateCode_iff code).1 hc
  simp only [stateCodes, List.mem_cons, List.not_mem_nil, or_false] at hmem
  obtain rfl | rfl | rfl | rfl | rfl | rfl | rfl | rfl | rfl := hmem
  · exact ⟨[], rfl⟩
  · exact ⟨[0x80#8], by decide⟩
  · exact ⟨[0xA0#8, 0x80#8], by decide⟩
  · exact ⟨[0x80#8, 0x80#8], by decide⟩
  · exact ⟨[0x80#8, 0x80#8], by decide⟩
  · exact ⟨[0x90#8, 0x80#8, 0x80#8], by decide⟩
  · exact ⟨[0x80#8, 0x80#8, 0x80#8], by decide⟩
  · exact ⟨[0x80#8, 0x80#8, 0x80#8], by decide⟩
  · exact absurd rfl he

end ByteStep

section Traversals

variable {code b : Byte} {d : List Byte}

/-- One byte of `is_valid_utf8` is one byte step that does not answer error. -/
theorem isValidUtf8From_cons (hc : code ≠ errorCode) :
    isValidUtf8From code (b :: d) = true ↔
      ∃ next, u8Step code b = some next ∧ next ≠ errorCode ∧ isValidUtf8From next d = true := by
  by_cases hb : b < 0x80#8
  · by_cases ha : code = acceptCode
    · subst ha
      simp [isValidUtf8From, hb, u8Step_ascii_accept, hc]
    · simp [isValidUtf8From, hb, ha, u8Step_ascii_pending]
  · rw [u8Step_table hc hb]
    cases hnext : u8TransT (code.toNat + (u8ClassOf b).toNat) <;> simp [isValidUtf8From, hb, hnext]

/-- One byte of `is_valid_utf8_prefix` is one byte step that does not answer error. -/
theorem isValidUtf8PrefixFrom_cons (hc : code ≠ errorCode) :
    isValidUtf8PrefixFrom code (b :: d) = true ↔
      ∃ next, u8Step code b = some next ∧ next ≠ errorCode ∧ isValidUtf8PrefixFrom next d = true := by
  by_cases hb : b < 0x80#8
  · by_cases ha : code = acceptCode
    · subst ha
      simp [isValidUtf8PrefixFrom, hb, u8Step_ascii_accept, hc]
    · simp [isValidUtf8PrefixFrom, hb, ha, u8Step_ascii_pending]
  · rw [u8Step_table hc hb]
    cases hnext : u8TransT (code.toNat + (u8ClassOf b).toNat) <;> simp [isValidUtf8PrefixFrom, hb, hnext]

/-- The short-circuit of `is_valid_utf8` changes nothing, since error is absorbing (41_utf8_dfa.md R148). -/
theorem isValidUtf8From_iff_u8Steps (d : List Byte) (hc : code ≠ errorCode) :
    isValidUtf8From code d = true ↔ u8Steps code d = some acceptCode := by
  induction d generalizing code with
  | nil => simp [isValidUtf8From, u8Steps]
  | cons b d ih =>
    rw [isValidUtf8From_cons hc]
    cases hstep : u8Step code b with
    | none => simp [u8Steps, hstep]
    | some next =>
      by_cases he : next = errorCode
      · simp [u8Steps, hstep, he, u8Steps_error, errorCode_ne_acceptCode]
      · simp [u8Steps, hstep, he, ih he]

/-- `is_valid_utf8_prefix` is the byte steps not ending in error (41_utf8_dfa.md R149). -/
theorem isValidUtf8PrefixFrom_iff_u8Steps (d : List Byte) (hc : code ≠ errorCode) :
    isValidUtf8PrefixFrom code d = true ↔ ∃ last, u8Steps code d = some last ∧ last ≠ errorCode := by
  induction d generalizing code with
  | nil => simp [isValidUtf8PrefixFrom, u8Steps, hc]
  | cons b d ih =>
    rw [isValidUtf8PrefixFrom_cons hc]
    cases hstep : u8Step code b with
    | none => simp [u8Steps, hstep]
    | some next =>
      by_cases he : next = errorCode
      · simp [u8Steps, hstep, he, u8Steps_error]
      · simp [u8Steps, hstep, he, ih he]

theorem isValidUtf8_iff_u8Steps (d : List Byte) :
    isValidUtf8 d = true ↔ u8Steps acceptCode d = some acceptCode :=
  isValidUtf8From_iff_u8Steps d errorCode_ne_acceptCode.symm

theorem isValidUtf8Prefix_iff_u8Steps (d : List Byte) :
    isValidUtf8Prefix d = true ↔ ∃ last, u8Steps acceptCode d = some last ∧ last ≠ errorCode :=
  isValidUtf8PrefixFrom_iff_u8Steps d errorCode_ne_acceptCode.symm

/-- An incomplete sequence can be completed: the code it leads to is legal and not error (41_utf8_dfa.md R159). -/
theorem isValidUtf8_append_of_isValidUtf8Prefix (h : isValidUtf8Prefix d = true) :
    ∃ e, isValidUtf8 (d ++ e) = true := by
  obtain ⟨last, hlast, hne⟩ := (isValidUtf8Prefix_iff_u8Steps d).1 h
  have hlegal : legalStateCode last = true := by
    obtain ⟨next, hnext, hlegal⟩ := u8Steps_legal d (code := acceptCode) (by decide)
    rw [hlast] at hnext
    cases hnext
    exact hlegal
  obtain ⟨e, he⟩ := u8Steps_reaches_accept hlegal hne
  refine ⟨e, (isValidUtf8_iff_u8Steps (d ++ e)).2 ?_⟩
  rw [u8Steps_append, hlast, Option.bind_some, he]

/-- A beginning of a valid sequence has not led to error, for error is absorbing. -/
theorem isValidUtf8Prefix_of_isValidUtf8_append {e : List Byte} (h : isValidUtf8 (d ++ e) = true) :
    isValidUtf8Prefix d = true := by
  rw [isValidUtf8_iff_u8Steps, u8Steps_append] at h
  obtain ⟨last, hlast, haccept⟩ := Option.bind_eq_some_iff.1 h
  refine (isValidUtf8Prefix_iff_u8Steps d).2 ⟨last, hlast, ?_⟩
  rintro rfl
  rw [u8Steps_error] at haccept
  exact errorCode_ne_acceptCode (Option.some.inj haccept)

end Traversals

/-- Settles O57: a code that is not error reaches accept by some bytes, and error never does. -/
theorem lenientlyValidIffExtendsToValid : Obligations.LenientlyValidIffExtendsToValid := by
  unfold Obligations.LenientlyValidIffExtendsToValid
  intro d
  constructor
  · exact isValidUtf8_append_of_isValidUtf8Prefix
  · rintro ⟨e, he⟩
    exact isValidUtf8Prefix_of_isValidUtf8_append he

end Sys2Proof.Machine

/-! Reset, the invariant of 10_state.md R23 along every run, and saving and restoring the two registers (R27, R30). -/

namespace Sys2Proof.Machine

/-- A meaning that answers every ready block with a legal code, and leaves it such a block: it neither stops nor leads out
of the nine codes of 10_state.md R22. -/
def KeepsRunning (meaning : State → Result) : Prop :=
  ∀ s : State, s.phase = .ready → legalStateCode s.u8State = true →
    ∃ t, meaning s = .next t ∧ t.phase = .ready ∧ legalStateCode t.u8State = true

section KeepsRunning

/-- The reset signal leaves accept, a legal code (10_state.md R30). -/
theorem legalStateCode_applyReset (s : State) : legalStateCode s.applyReset.u8State = true := by
  rw [State.applyReset_u8State]
  decide

theorem respond_keepsRunning (ok : Bool) (data : Word) :
    KeepsRunning (fun s => onceReset s (.next (s.respond ok data))) :=
  fun _ hs hc => ⟨_, onceReset_ready hs, hs, hc⟩

theorem raiseIllegal_keepsRunning (cause : IllegalCause) : KeepsRunning (raiseIllegal cause) :=
  respond_keepsRunning false (causeCode cause)

theorem ceUpdate_keepsRunning (f : Word → Word) : KeepsRunning (ceUpdate f) :=
  fun _ hs hc => ⟨_, ceUpdate_ready hs, hs, hc⟩

theorem ceAnswer_keepsRunning (g : Word → Word) : KeepsRunning (ceAnswer g) :=
  fun _ hs hc => ⟨_, ceAnswer_ready hs, hs, hc⟩

theorem ueAnswer_keepsRunning (g : Byte → Word) : KeepsRunning (ueAnswer g) :=
  fun _ hs hc => ⟨_, ueAnswer_ready hs, hs, hc⟩

/-- The one operation that writes `U8_STATE`: its update has to lead each legal code to a legal code. -/
theorem ueUpdate_keepsRunning {f : Byte → Option Byte}
    (hf : ∀ code, legalStateCode code = true → ∃ next, f code = some next ∧ legalStateCode next = true) :
    KeepsRunning (ueUpdate f) := by
  intro s hs hc
  obtain ⟨next, hnext, hlegal⟩ := hf s.u8State hc
  exact ⟨_, ueUpdate_ready hs hnext, hs, hlegal⟩

theorem execU8Load_keepsRunning (byte : Byte) : KeepsRunning (execU8Load byte) := by
  unfold execU8Load
  split
  next hbyte => exact ueUpdate_keepsRunning (fun _ _ => ⟨byte, rfl, hbyte⟩)
  next => exact raiseIllegal_keepsRunning _

theorem execU8Trans_keepsRunning (idx : Index) : KeepsRunning (execU8Trans idx) := by
  unfold execU8Trans
  split
  · exact ueAnswer_keepsRunning _
  · exact raiseIllegal_keepsRunning _

/-- Every command runs to its end from a ready block with a legal code, and leaves a legal code. -/
theorem exec_keepsRunning (i : Instr) : KeepsRunning (exec i) := by
  cases i with
  | nop => exact respond_keepsRunning true 0#32
  | crcSeed word => exact ceUpdate_keepsRunning (fun _ => ~~~word)
  | crcFeed8 byte => exact ceUpdate_keepsRunning (fun crc => crcStep crc byte)
  | crcFeed32 word => exact ceUpdate_keepsRunning (fun crc => crcSteps crc (le32 word))
  | crcRead => exact ceAnswer_keepsRunning finalised
  | crcCheck => exact ceAnswer_keepsRunning checkWord
  | crcTable byte => exact ceAnswer_keepsRunning (fun _ => crcT byte)
  | u8Clear => exact ueUpdate_keepsRunning (fun _ _ => ⟨acceptCode, rfl, by decide⟩)
  | u8Load byte => exact execU8Load_keepsRunning byte
  | u8Feed8 byte => exact ueUpdate_keepsRunning (fun code => u8Step_legal code byte)
  | u8Status => exact ueAnswer_keepsRunning statusWord
  | u8Class idx => exact ueAnswer_keepsRunning (fun _ => zext32 (u8ClassT idx))
  | u8Trans idx => exact execU8Trans_keepsRunning idx

/-- Whatever the host does next, a ready block with a legal code goes on to such a block (10_state.md R23). -/
theorem step_keepsRunning : KeepsRunning step := by
  intro s hs hc
  match hhost : s.host with
  | [] => exact ⟨s, step_waiting hhost, hs, hc⟩
  | .reset :: rest => exact ⟨_, step_reset hhost, rfl, legalStateCode_applyReset _⟩
  | .command w :: rest =>
    cases hd : decode w with
    | ok i => rw [step_legal hhost hd]; exact exec_keepsRunning i _ hs hc
    | error cause => rw [step_illegal hhost hd]; exact raiseIllegal_keepsRunning cause _ hs hc

theorem runSteps_keepsRunning (n : Nat) : KeepsRunning (runSteps n) := by
  induction n with
  | zero => exact fun s hs hc => ⟨s, rfl, hs, hc⟩
  | succ n ih =>
    intro s hs hc
    obtain ⟨t, hstep, ht, htc⟩ := step_keepsRunning s hs hc
    rw [runSteps_next hstep]
    exact ih t ht htc

end KeepsRunning

section Invariant

variable {s t : State}

/-- A command or illegal word that answers a next state keeps the invariant: its phase is the old one, so where the new
state is ready the old one was, and had a legal code. -/
theorem KeepsRunning.keeps_Inv {engine : Option Engine} {meaning : State → Result} (hrun : KeepsRunning meaning)
    (hwithin : StaysWithin engine meaning) (hinv : s.Inv) (h : meaning s = .next t) : t.Inv := by
  intro ht
  obtain ⟨hphase, -⟩ := hwithin s t h
  have hs : s.phase = .ready := hphase.symm.trans ht
  obtain ⟨u, hu, -, hlegal⟩ := hrun s hs (hinv hs)
  rw [h] at hu
  cases hu
  exact hlegal

theorem step_keeps_Inv (hinv : s.Inv) (h : step s = .next t) : t.Inv := by
  match hhost : s.host with
  | [] =>
    rw [step_waiting hhost] at h
    cases h
    exact hinv
  | .reset :: rest =>
    rw [step_reset hhost] at h
    cases h
    exact fun _ => legalStateCode_applyReset _
  | .command w :: rest =>
    cases hd : decode w with
    | ok i =>
      rw [step_legal hhost hd] at h
      exact (exec_keepsRunning i).keeps_Inv (exec_staysWithin i) (s := { s with host := rest }) hinv h
    | error cause =>
      rw [step_illegal hhost hd] at h
      exact (raiseIllegal_keepsRunning cause).keeps_Inv (raiseIllegal_staysWithin none cause)
        (s := { s with host := rest }) hinv h

end Invariant

/-- Settles O16, by what the host does next: a wait changes nothing, the reset signal writes accept, and every command and
illegal word keeps the invariant. -/
theorem everyStepKeepsLegalCode : Obligations.EveryStepKeepsLegalCode := by
  unfold Obligations.EveryStepKeepsLegalCode
  exact fun _ _ => step_keeps_Inv

/-- Settles O17: the reset signal makes the block ready in accept, and every later step goes on from there. -/
theorem legalCodeAtEveryStateAfterReset : Obligations.LegalCodeAtEveryStateAfterReset := by
  unfold Obligations.LegalCodeAtEveryStateAfterReset
  intro n s
  rw [runSteps_next (step_reset rfl)]
  obtain ⟨t, hrun, ht, hlegal⟩ := runSteps_keepsRunning n s.applyReset rfl (legalStateCode_applyReset s)
  exact ⟨t, hrun, ht, (legalStateCode_iff t.u8State).1 hlegal⟩

section SaveAndRestore

/-- CRC_SEED's complement undoes that of CRC_READ (10_state.md R27). -/
@[simp] theorem not_finalised (crc : Word) : ~~~finalised crc = crc := BitVec.not_not

/-- The STATE field of the status word is the state code (41_utf8_dfa.md R150). -/
@[simp] theorem statusWord_stateField (code : Byte) : (statusWord code).extractLsb' 8 8 = code := by
  apply BitVec.eq_of_getLsbD_eq
  intro k hk
  have flagsBelow : ∀ j < 8, ∀ flag : Bool, (if flag then 2#32 else 0#32).getLsbD (8 + j) = false ∧
      (if flag then 1#32 else 0#32).getLsbD (8 + j) = false := by decide
  have hcode : (zext32 code <<< 8).getLsbD (8 + k) = code.getLsbD k := by
    have hin : 8 + k < 32 := by omega
    simp [zext32, hin]
  simp only [statusWord, BitVec.getLsbD_extractLsb', BitVec.getLsbD_or, hk, hcode, (flagsBelow k hk _).1,
    (flagsBelow k hk _).2, decide_true, Bool.true_and, Bool.or_false]

variable {s : State}

/-- CRC_READ answers the finalised register and changes nothing else (40_crc32c.md R113). -/
theorem exec_crcRead_ready (hs : s.phase = .ready) :
    exec .crcRead s = .next (s.respond true (finalised s.crcState)) :=
  ceAnswer_ready hs

/-- CRC_SEED writes the complement of its word (40_crc32c.md R110). -/
theorem exec_crcSeed_ready {word : Word} (hs : s.phase = .ready) :
    exec (.crcSeed word) s = .next ((s.writeCrc (~~~word)).respond true (finalised (~~~word))) :=
  ceUpdate_ready (f := fun _ => ~~~word) hs

/-- U8_STATUS answers the status word and changes nothing else (41_utf8_dfa.md R154). -/
theorem exec_u8Status_ready (hs : s.phase = .ready) :
    exec .u8Status s = .next (s.respond true (statusWord s.u8State)) :=
  ueAnswer_ready hs

/-- U8_LOAD of a legal code writes it (41_utf8_dfa.md R152). -/
theorem exec_u8Load_ready {byte : Byte} (hs : s.phase = .ready) (hbyte : legalStateCode byte = true) :
    exec (.u8Load byte) s = .next ((s.writeU8 byte).respond true (statusWord byte)) := by
  simp only [exec, execU8Load, hbyte, if_true]
  exact ueUpdate_ready hs rfl

end SaveAndRestore

/-- Settles O45: the complement of CRC_SEED undoes that of CRC_READ, and the STATE field of U8_STATUS is the code that
U8_LOAD writes. -/
theorem saveAndRestoreAreExact : Obligations.SaveAndRestoreAreExact := by
  unfold Obligations.SaveAndRestoreAreExact
  constructor
  · intro s u hs hu
    exact ⟨_, _, _, exec_crcRead_ready hs, rfl, exec_crcSeed_ready hu, not_finalised s.crcState⟩
  · intro s u hs hu hlegal
    refine ⟨_, _, _, exec_u8Status_ready hs, rfl, exec_u8Load_ready hu ?_, statusWord_stateField s.u8State⟩
    rwa [statusWord_stateField]

/-- Settles O1: the reset signal writes the values of 10_state.md R30, and the complement of all ones is 0. -/
theorem resetWritesTheResetValues : Obligations.ResetWritesTheResetValues := by
  unfold Obligations.ResetWritesTheResetValues
  refine ⟨fun s rest hhost => step_reset hhost, rfl, rfl, rfl, fun s => ?_⟩
  have hzero : finalised 0xFFFFFFFF#32 = 0#32 := by decide
  rw [exec_crcRead_ready s.applyReset_phase, State.applyReset_crcState, hzero]
  rfl

end Sys2Proof.Machine

/-! The transition read of U8_FEED8 (20_memory.md R41), read commands (R47), the word feed as byte feeds (R45), and the
two engines as independent machines (R51). -/

namespace Sys2Proof.Machine

section TransitionRead

theorem u8ClassT_le (i : Index) : (u8ClassT i).toNat ≤ 10 := by
  have all : ∀ cls ∈ u8ClassRom, cls.toNat ≤ 10 := by decide
  exact all _ (List.getElem_mem _)

/-- The row of error is the only one that is not stored (41_utf8_dfa.md R145). -/
theorem toNat_le_of_legalStateCode {code : Byte} (hc : legalStateCode code = true) (he : code ≠ errorCode) :
    code.toNat ≤ 77 := by
  have all : ∀ c ∈ stateCodes, c ≠ errorCode → c.toNat ≤ 77 := by decide
  exact all code ((legalStateCode_iff code).1 hc) he

theorem u8TransT_defined {k : Nat} (hk : k ≤ 87) : ∃ v, u8TransT k = some v :=
  ⟨_, List.getElem?_eq_getElem (by rw [u8TransRom_length]; omega)⟩

end TransitionRead

/-- Settles O49: a code with a stored row is at most 77, and a class at most 10. -/
theorem transitionReadIsAlwaysInRange : Obligations.TransitionReadIsAlwaysInRange := by
  unfold Obligations.TransitionReadIsAlwaysInRange
  intro code b hc he _
  have hrow : code.toNat ≤ 77 := toNat_le_of_legalStateCode hc he
  have hcls : (u8ClassOf b).toNat ≤ 10 := u8ClassT_le _
  have hk : code.toNat + (u8ClassOf b).toNat ≤ 87 := by omega
  exact ⟨hk, u8TransT_defined hk⟩

/-- A meaning that answers a next state reads neither the host's later actions nor the earlier responses: with others in
their place it gives the same response and the same registers. -/
def IgnoresHistory (meaning : State → Result) : Prop :=
  ∀ s t : State, meaning s = .next t →
    ∃ r, t.responses = s.responses ++ [r] ∧
      ∀ (host : List HostAction) (earlier : List Response),
        meaning { s with host := host, responses := earlier } =
          .next { t with host := host, responses := earlier ++ [r] }

section IgnoresHistory

theorem respond_ignoresHistory (ok : Bool) (data : Word) :
    IgnoresHistory (fun s => onceReset s (.next (s.respond ok data))) := by
  intro s t h
  obtain ⟨hs, h⟩ := onceReset_eq_next h
  cases h
  exact ⟨_, rfl, fun _ _ => onceReset_ready hs⟩

theorem raiseIllegal_ignoresHistory (cause : IllegalCause) : IgnoresHistory (raiseIllegal cause) :=
  respond_ignoresHistory false (causeCode cause)

theorem ceUpdate_ignoresHistory (f : Word → Word) : IgnoresHistory (ceUpdate f) := by
  intro s t h
  obtain ⟨hs, rfl⟩ := ceUpdate_eq_next h
  exact ⟨_, rfl, fun _ _ => ceUpdate_ready hs⟩

theorem ceAnswer_ignoresHistory (g : Word → Word) : IgnoresHistory (ceAnswer g) := by
  intro s t h
  obtain ⟨hs, rfl⟩ := ceAnswer_eq_next h
  exact ⟨_, rfl, fun _ _ => ceAnswer_ready hs⟩

theorem ueUpdate_ignoresHistory (f : Byte → Option Byte) : IgnoresHistory (ueUpdate f) := by
  intro s t h
  obtain ⟨hs, code, hcode, rfl⟩ := ueUpdate_eq_next h
  exact ⟨_, rfl, fun _ _ => ueUpdate_ready hs hcode⟩

theorem ueAnswer_ignoresHistory (g : Byte → Word) : IgnoresHistory (ueAnswer g) := by
  intro s t h
  obtain ⟨hs, rfl⟩ := ueAnswer_eq_next h
  exact ⟨_, rfl, fun _ _ => ueAnswer_ready hs⟩

theorem execU8Load_ignoresHistory (byte : Byte) : IgnoresHistory (execU8Load byte) := by
  unfold execU8Load
  split
  · exact ueUpdate_ignoresHistory _
  · exact raiseIllegal_ignoresHistory _

theorem execU8Trans_ignoresHistory (idx : Index) : IgnoresHistory (execU8Trans idx) := by
  unfold execU8Trans
  split
  · exact ueAnswer_ignoresHistory _
  · exact raiseIllegal_ignoresHistory _

/-- The host's side of the port is no input of any command. -/
theorem exec_ignoresHistory (i : Instr) : IgnoresHistory (exec i) := by
  cases i with
  | nop => exact respond_ignoresHistory true 0#32
  | crcSeed word => exact ceUpdate_ignoresHistory (fun _ => ~~~word)
  | crcFeed8 byte => exact ceUpdate_ignoresHistory (fun crc => crcStep crc byte)
  | crcFeed32 word => exact ceUpdate_ignoresHistory (fun crc => crcSteps crc (le32 word))
  | crcRead => exact ceAnswer_ignoresHistory finalised
  | crcCheck => exact ceAnswer_ignoresHistory checkWord
  | crcTable byte => exact ceAnswer_ignoresHistory (fun _ => crcT byte)
  | u8Clear => exact ueUpdate_ignoresHistory (fun _ => some acceptCode)
  | u8Load byte => exact execU8Load_ignoresHistory byte
  | u8Feed8 byte => exact ueUpdate_ignoresHistory (fun code => u8Step code byte)
  | u8Status => exact ueAnswer_ignoresHistory statusWord
  | u8Class idx => exact ueAnswer_ignoresHistory (fun _ => zext32 (u8ClassT idx))
  | u8Trans idx => exact execU8Trans_ignoresHistory idx

end IgnoresHistory

/-- A meaning that, where it answers a next state, changes nothing but the list of responses (20_memory.md R47). -/
def OnlyAnswers (meaning : State → Result) : Prop :=
  ∀ s t : State, meaning s = .next t → ∃ r, t = { s with responses := s.responses ++ [r] }

section OnlyAnswers

theorem respond_onlyAnswers (ok : Bool) (data : Word) :
    OnlyAnswers (fun s => onceReset s (.next (s.respond ok data))) := by
  intro s t h
  obtain ⟨-, h⟩ := onceReset_eq_next h
  cases h
  exact ⟨_, rfl⟩

theorem ceAnswer_onlyAnswers (g : Word → Word) : OnlyAnswers (ceAnswer g) :=
  fun _ _ h => ⟨_, (ceAnswer_eq_next h).2⟩

theorem ueAnswer_onlyAnswers (g : Byte → Word) : OnlyAnswers (ueAnswer g) :=
  fun _ _ h => ⟨_, (ueAnswer_eq_next h).2⟩

theorem execU8Trans_onlyAnswers (idx : Index) : OnlyAnswers (execU8Trans idx) := by
  unfold execU8Trans
  split
  · exact ueAnswer_onlyAnswers _
  · exact respond_onlyAnswers false (causeCode .illegalRange)

theorem exec_onlyAnswers {i : Instr} (hread : isReadCommand i = true) : OnlyAnswers (exec i) := by
  cases i with
  | nop => exact respond_onlyAnswers true 0#32
  | crcRead => exact ceAnswer_onlyAnswers finalised
  | crcCheck => exact ceAnswer_onlyAnswers checkWord
  | crcTable byte => exact ceAnswer_onlyAnswers (fun _ => crcT byte)
  | u8Status => exact ueAnswer_onlyAnswers statusWord
  | u8Class idx => exact ueAnswer_onlyAnswers (fun _ => zext32 (u8ClassT idx))
  | u8Trans idx => exact execU8Trans_onlyAnswers idx
  | crcSeed | crcFeed8 | crcFeed32 | u8Clear | u8Load | u8Feed8 => cases hread

end OnlyAnswers

/-- Settles O20: a read command only answers, and the response it has added is no input of the repetition. -/
theorem readCommandsChangeNothing : Obligations.ReadCommandsChangeNothing := by
  unfold Obligations.ReadCommandsChangeNothing
  intro i s t hread h
  obtain ⟨r, rfl⟩ := exec_onlyAnswers hread s t h
  obtain ⟨again, hagain, hrepeat⟩ := exec_ignoresHistory i s _ h
  have hr : r = again := by simpa using hagain
  subst hr
  exact ⟨r, rfl, hrepeat s.host (s.responses ++ [r])⟩

section Sequences

variable {i : Instr} {rest : List Instr} {s t : State}

theorem execAll_next (h : exec i s = .next t) : execAll (i :: rest) s = execAll rest t := by
  simp only [execAll, h]

theorem execAll_cons_eq_next (h : execAll (i :: rest) s = .next t) :
    ∃ u, exec i s = .next u ∧ execAll rest u = .next t := by
  cases hi : exec i s with
  | next u => exact ⟨u, rfl, by rwa [execAll_next hi] at h⟩
  | fault r => simp [execAll, hi] at h
  | refused r => simp [execAll, hi] at h

theorem execAll_keepsRunning (commands : List Instr) : KeepsRunning (execAll commands) := by
  induction commands with
  | nil => exact fun s hs hc => ⟨s, rfl, hs, hc⟩
  | cons i rest ih =>
    intro s hs hc
    obtain ⟨t, hexec, ht, htc⟩ := exec_keepsRunning i s hs hc
    rw [execAll_next hexec]
    exact ih t ht htc

/-- CRC_FEED8 steps the register by its byte (40_crc32c.md R111). -/
theorem exec_crcFeed8_ready {byte : Byte} (hs : s.phase = .ready) :
    exec (.crcFeed8 byte) s =
      .next ((s.writeCrc (crcStep s.crcState byte)).respond true (finalised (crcStep s.crcState byte))) :=
  ceUpdate_ready (f := fun crc => crcStep crc byte) hs

/-- CRC_FEED32 steps the register by the four bytes of its word (40_crc32c.md R112). -/
theorem exec_crcFeed32_ready {word : Word} (hs : s.phase = .ready) :
    exec (.crcFeed32 word) s =
      .next ((s.writeCrc (crcSteps s.crcState (le32 word))).respond true
        (finalised (crcSteps s.crcState (le32 word)))) :=
  ceUpdate_ready (f := fun crc => crcSteps crc (le32 word)) hs

/-- Byte feeds that end with `b` step the register by all their bytes, and the last answers the finalised register. -/
theorem execAll_crcFeedN_append_singleton (d : List Byte) (b : Byte) (hs : s.phase = .ready) :
    ∃ t, execAll (crcFeedN (d ++ [b])) s = .next t ∧ t.crcState = crcSteps s.crcState (d ++ [b]) ∧
      t.u8State = s.u8State ∧ t.responses.getLast? = some ⟨true, finalised t.crcState⟩ := by
  induction d generalizing s with
  | nil => exact ⟨_, execAll_next (exec_crcFeed8_ready hs), rfl, rfl, List.getLast?_concat⟩
  | cons x d ih =>
    obtain ⟨t, hrest, ht⟩ := ih (s := (s.writeCrc (crcStep s.crcState x)).respond true
      (finalised (crcStep s.crcState x))) hs
    exact ⟨t, (execAll_next (exec_crcFeed8_ready hs)).trans hrest, ht⟩

end Sequences

/-- Settles O44: the word feed steps over the list of its four bytes, which the byte feeds step over one by one. -/
theorem wordFeedIsFourByteFeeds : Obligations.WordFeedIsFourByteFeeds := by
  unfold Obligations.WordFeedIsFourByteFeeds
  intro s w hs
  obtain ⟨u, hu, hcrc, hcode, hlast⟩ :=
    execAll_crcFeedN_append_singleton [wordByte w 0, wordByte w 1, wordByte w 2] (wordByte w 3) hs
  have hword : u.crcState = crcSteps s.crcState (le32 w) := hcrc
  refine ⟨_, u, exec_crcFeed32_ready hs, hu, hword.symm, hcode.symm, ?_⟩
  rw [hlast, hword]
  exact List.getLast?_concat

/-- The two states hold the same value in the register of `engine`. -/
def SameRegister : Engine → State → State → Prop
  | .ce, s, c => s.crcState = c.crcState
  | .ue, s, c => s.u8State = c.u8State

section EngineRuns

variable {engine : Engine} {i : Instr} {commands : List Instr} {s t c : State}

theorem SameRegister.refl (engine : Engine) (s : State) : SameRegister engine s s := by
  cases engine <;> rfl

/-- A command leaves the register of an engine it is not addressed to (00_scope.md R3). -/
theorem exec_keeps_sameRegister (hi : engineOf i ≠ some engine) (h : exec i s = .next t)
    (hsame : SameRegister engine s c) : SameRegister engine t c := by
  obtain ⟨-, -, -, hce, hue⟩ := exec_staysWithin i s t h
  cases engine with
  | ce => exact (hce hi).1.trans hsame
  | ue => exact (hue hi).1.trans hsame

/-- A command does the same to its engine's register, with the same response, in any state that holds the same value
there: it reads neither the other register nor the host's side of the port. -/
theorem exec_of_sameRegister (hi : engineOf i = some engine) (hphase : s.phase = c.phase)
    (hsame : SameRegister engine s c) (h : exec i s = .next t) :
    ∃ d r, exec i c = .next d ∧ t.phase = d.phase ∧ SameRegister engine t d ∧
      t.responses = s.responses ++ [r] ∧ d.responses = c.responses ++ [r] := by
  obtain ⟨-, -, -, hce, hue⟩ := exec_staysWithin i s t h
  cases c
  cases hphase
  cases engine with
  | ce =>
    obtain ⟨r, hr, hagain⟩ := exec_ignoresHistory i _ _ ((hue (by simp [hi])).2 _)
    cases hsame
    exact ⟨_, r, hagain _ _, rfl, rfl, hr, rfl⟩
  | ue =>
    obtain ⟨r, hr, hagain⟩ := exec_ignoresHistory i _ _ ((hce (by simp [hi])).2 _)
    cases hsame
    exact ⟨_, r, hagain _ _, rfl, rfl, hr, rfl⟩

/-- A whole sequence, and only the commands of one engine from a state with the same value in its register: the register
ends the same, and the engine's commands get the same responses. -/
theorem execAll_of_sameRegister (hphase : s.phase = c.phase) (hsame : SameRegister engine s c)
    (h : execAll commands s = .next t) :
    ∃ d rs rd, execAll (commands.filter (fun i => engineOf i == some engine)) c = .next d ∧
      SameRegister engine t d ∧ t.responses = s.responses ++ rs ∧ rs.length = commands.length ∧
      d.responses = c.responses ++ rd ∧
      (commands.zip rs).filter (fun p => engineOf p.1 == some engine) =
        (commands.filter (fun i => engineOf i == some engine)).zip rd := by
  induction commands generalizing s c with
  | nil =>
    cases h
    exact ⟨c, [], [], rfl, hsame, (List.append_nil _).symm, rfl, (List.append_nil _).symm, rfl⟩
  | cons i rest ih =>
    obtain ⟨u, hi, hrest⟩ := execAll_cons_eq_next h
    by_cases he : engineOf i = some engine
    · obtain ⟨v, r, hv, hphase, hsame, hu, hvr⟩ := exec_of_sameRegister he hphase hsame hi
      obtain ⟨d, rs, rd, hd, hend, hrs, hlength, hrd, hpaired⟩ := ih hphase hsame hrest
      refine ⟨d, r :: rs, r :: rd, ?_, hend, by simp [hrs, hu], by simp [hlength], by simp [hrd, hvr], ?_⟩
      · simpa [he, execAll_next hv] using hd
      · simpa [he] using hpaired
    · obtain ⟨hkept, -, ⟨r, hu⟩, -⟩ := exec_staysWithin i s u hi
      obtain ⟨d, rs, rd, hd, hend, hrs, hlength, hrd, hpaired⟩ :=
        ih (hkept.trans hphase) (exec_keeps_sameRegister he hi hsame) hrest
      refine ⟨d, r :: rs, rd, ?_, hend, by simp [hrs, hu], by simp [hlength], hrd, ?_⟩
      · simpa [he] using hd
      · simpa [he] using hpaired

@[simp] theorem pairedResponses_append (commands : List Instr) (before rs : List Response) :
    pairedResponses commands before (before ++ rs) = commands.zip rs := by
  simp [pairedResponses]

/-- `execAll_of_sameRegister` from one start state, in the terms of the statement on R51. -/
theorem execAll_engine_separates (engine : Engine) (h : execAll commands s = .next t) :
    ∃ d, execAll (commands.filter (fun i => engineOf i == some engine)) s = .next d ∧
      SameRegister engine t d ∧ t.responses.length = s.responses.length + commands.length ∧
      (pairedResponses commands s.responses t.responses).filter (fun p => engineOf p.1 == some engine) =
        pairedResponses (commands.filter (fun i => engineOf i == some engine)) s.responses d.responses := by
  obtain ⟨d, rs, rd, hd, hend, hrs, hlength, hrd, hpaired⟩ :=
    execAll_of_sameRegister rfl (SameRegister.refl engine s) h
  refine ⟨d, hd, hend, by simp [hrs, hlength], ?_⟩
  rw [hrs, hrd, pairedResponses_append, pairedResponses_append, hpaired]

end EngineRuns

/-- Settles O21: the whole run completes, and the run of either engine's commands alone follows it. -/
theorem engineSequencesCommute : Obligations.EngineSequencesCommute := by
  unfold Obligations.EngineSequencesCommute
  intro commands s hinv hs
  obtain ⟨t, ht, -, -⟩ := execAll_keepsRunning commands s hs (hinv hs)
  obtain ⟨c, hc, hcrc, hlength, hceResponses⟩ := execAll_engine_separates .ce ht
  obtain ⟨u, hu, hcode, -, hueResponses⟩ := execAll_engine_separates .ue ht
  exact ⟨t, c, u, ht, hc, hu, hcrc, hcode, hlength, hceResponses, hueResponses⟩

end Sys2Proof.Machine

/-! The decoder by its conditions (30_encoding.md R64-R66), the port running the commands the host issues (R60), and the
three table calls (R70). -/

namespace Sys2Proof.Machine

section Decoder

variable {w : CommandWord} {op : Byte} {arg : Word} {row : OpcodeRow}

theorem rowOf_eq_none_iff : rowOf op = none ↔ opcodeUnassigned op := by
  rw [rowOf, List.find?_eq_none]
  simp only [opcodeTable, List.forall_mem_cons, List.not_mem_nil, false_imp_iff, implies_true, and_true, beq_iff_eq]
  constructor
  · intro h
    bv_omega
  · intro h
    bv_omega

theorem rowOf_eq_some (h : rowOf op = some row) : row ∈ opcodeTable ∧ row.op = op :=
  ⟨List.mem_of_find?_eq_some h, by simpa using List.find?_some h⟩

/-- A mask of the high bits answers 0 exactly where the field of those bits is 0. -/
theorem and_highMask_eq_zero_iff {m : Nat} (v : BitVec m) (n : Nat) :
    v &&& (BitVec.allOnes m <<< n) = 0#m ↔ v.extractLsb' n (m - n) = 0#(m - n) := by
  constructor
  · intro h
    apply BitVec.eq_of_getLsbD_eq
    intro i hi
    have hbit := congrArg (fun u => u.getLsbD (n + i)) h
    have hin : n + i < m := by omega
    simpa [hi, hin] using hbit
  · intro h
    apply BitVec.eq_of_getLsbD_eq
    intro i hi
    by_cases hlow : i < n
    · simp [hlow]
    · have hbit := congrArg (fun u => u.getLsbD (i - n)) h
      have hfield : i - n < m - n := by omega
      have hsum : n + (i - n) = i := by omega
      simp only [BitVec.getLsbD_extractLsb', hfield, decide_true, Bool.true_and, hsum] at hbit
      simp [hbit]

/-- Each row's mask covers the reserved fields that 30_encoding.md R62 gives its opcode. -/
theorem reservedMask_clear_iff (h : row ∈ opcodeTable) (arg : Word) :
    arg &&& reservedMask row.format = 0#32 ↔ ¬ reservedBitSet row.op arg := by
  have hN : arg &&& 0xFFFFFFFF#32 = arg := BitVec.and_allOnes
  have hB : arg &&& 0xFFFFFF00#32 = 0#32 ↔ arg.extractLsb' 8 24 = 0#24 := and_highMask_eq_zero_iff arg 8
  have hI : arg &&& 0xFFFFFF80#32 = 0#32 ↔ arg.extractLsb' 7 25 = 0#25 := and_highMask_eq_zero_iff arg 7
  simp only [opcodeTable, List.mem_cons, List.not_mem_nil, or_false] at h
  obtain rfl | rfl | rfl | rfl | rfl | rfl | rfl | rfl | rfl | rfl | rfl | rfl | rfl := h <;>
    simp [reservedMask, reservedBitSet, hN, hB, hI]

theorem legalStateCode_byteOperand_iff (arg : Word) : legalStateCode (byteOperand arg) = true ↔
    (arg.extractLsb' 0 8).toNat ∈ [0, 11, 22, 33, 44, 55, 66, 77, 88] := by
  rw [legalStateCode_iff, byteOperand]
  simp only [stateCodes, List.mem_cons, List.not_mem_nil, or_false, BitVec.toNat_eq, BitVec.toNat_ofNat, Nat.reducePow,
    Nat.reduceMod]

theorem transIndexInRange_idxOperand_iff (arg : Word) :
    transIndexInRange (idxOperand arg) = true ↔ (arg.extractLsb' 0 7).toNat ≤ 87 := by
  rw [transIndexInRange, decide_eq_true_iff, idxOperand]

/-- Each row's check is the range condition of its opcode (30_encoding.md R64). -/
theorem row_legal_iff (h : row ∈ opcodeTable) (arg : Word) :
    row.legal arg = true ↔ ¬ operandOutOfRange row.op arg := by
  simp only [opcodeTable, List.mem_cons, List.not_mem_nil, or_false] at h
  obtain rfl | rfl | rfl | rfl | rfl | rfl | rfl | rfl | rfl | rfl | rfl | rfl | rfl := h <;>
    simp [operandOutOfRange, legalStateCode_byteOperand_iff, transIndexInRange_idxOperand_iff, -List.mem_cons]

theorem decode_of_opcodeUnassigned (h : opcodeUnassigned (opcodeField w)) : decode w = .error .illegalOpcode := by
  simp only [decode, rowOf_eq_none_iff.2 h]

/-- What the checks of an assigned opcode answer, with the row's mask and check read as the written conditions. -/
theorem decode_of_assigned (h : ¬ opcodeUnassigned (opcodeField w)) :
    ∃ i, decode w =
      if reservedBitSet (opcodeField w) (argField w) then .error .illegalReserved
      else if operandOutOfRange (opcodeField w) (argField w) then .error .illegalRange else .ok i := by
  obtain ⟨row, hrow⟩ := Option.ne_none_iff_exists'.1 (mt rowOf_eq_none_iff.1 h)
  obtain ⟨hmem, hop⟩ := rowOf_eq_some hrow
  have hmask := reservedMask_clear_iff hmem (argField w)
  have hlegal := row_legal_iff hmem (argField w)
  rw [hop] at hmask hlegal
  refine ⟨row.build (argField w), ?_⟩
  simp only [decode, hrow, hmask, hlegal, ite_not]

end Decoder

/-- Settles O11: the decoder's checks run in the order of the conditions, so exactly one of the four cases holds. -/
theorem decodeFollowsTheLegalityConditions : Obligations.DecodeFollowsTheLegalityConditions := by
  unfold Obligations.DecodeFollowsTheLegalityConditions
  intro w
  by_cases hop : opcodeUnassigned (opcodeField w)
  · simp [decode_of_opcodeUnassigned hop, eq_true hop]
  · obtain ⟨i, hdecode⟩ := decode_of_assigned hop
    rw [hdecode]
    split_ifs with hreserved hrange
    · simp [eq_false hop, eq_true hreserved]
    · simp [eq_false hop, eq_false hreserved, eq_true hrange]
    · simp [eq_false hop, eq_false hreserved, eq_false hrange]

section EveryCommandAnswered

variable {s : State} {w : CommandWord} {rest : List HostAction}

/-- A word from the host, legal or not, is taken from its actions and gets one response. -/
theorem step_command_answers (hs : s.phase = .ready) (hc : legalStateCode s.u8State = true)
    (hhost : s.host = .command w :: rest) :
    ∃ t r, step s = .next t ∧ t.phase = .ready ∧ legalStateCode t.u8State = true ∧ t.host = rest ∧
      t.responses = s.responses ++ [r] := by
  obtain ⟨t, hstep, ht, hlegal⟩ := step_keepsRunning s hs hc
  have hport : t.host = rest ∧ ∃ r, t.responses = s.responses ++ [r] := by
    cases hd : decode w with
    | ok i =>
      rw [step_legal hhost hd] at hstep
      obtain ⟨-, hrest, hresponse, -⟩ := exec_staysWithin i _ t hstep
      exact ⟨hrest, hresponse⟩
    | error cause =>
      rw [step_illegal hhost hd] at hstep
      obtain ⟨-, hrest, hresponse, -⟩ := raiseIllegal_staysWithin none cause _ t hstep
      exact ⟨hrest, hresponse⟩
  obtain ⟨hrest, r, hr⟩ := hport
  exact ⟨t, r, hstep, ht, hlegal, hrest, hr⟩

/-- As many steps as the host has actions make all of them and give each command its one response. -/
def AnswersAllActions (s : State) : Prop :=
  ∃ t new, runSteps s.host.length s = .next t ∧ t.host = [] ∧ t.responses = s.responses ++ new ∧
    new.length = commandCount s.host

theorem AnswersAllActions.of_idle (hhost : s.host = []) : AnswersAllActions s :=
  ⟨s, [], by rw [hhost]; rfl, hhost, (List.append_nil _).symm, by rw [hhost]; rfl⟩

theorem AnswersAllActions.of_reset (hhost : s.host = .reset :: rest)
    (h : AnswersAllActions { s with host := rest }.applyReset) : AnswersAllActions s := by
  obtain ⟨t, new, hrun, hdone, hresponses, hcount⟩ := h
  refine ⟨t, new, ?_, hdone, hresponses, by rw [hhost]; exact hcount⟩
  rw [hhost, List.length_cons, runSteps_next (step_reset hhost)]
  exact hrun

/-- From a ready block with a legal code, by the host's actions. -/
theorem AnswersAllActions.of_ready (hs : s.phase = .ready) (hc : legalStateCode s.u8State = true) :
    AnswersAllActions s := by
  induction hhost : s.host generalizing s with
  | nil => exact .of_idle hhost
  | cons action rest ih =>
    cases action with
    | reset => exact .of_reset hhost (ih rfl (legalStateCode_applyReset _) rfl)
    | command w =>
      obtain ⟨u, r, hstep, hu, hlegal, hrest, hr⟩ := step_command_answers hs hc hhost
      obtain ⟨t, new, hrun, hdone, hresponses, hcount⟩ := ih hu hlegal hrest
      rw [hrest] at hrun hcount
      refine ⟨t, r :: new, ?_, hdone, by simp [hresponses, hr], by simp [hhost, commandCount, hcount]⟩
      rw [hhost, List.length_cons, runSteps_next hstep]
      exact hrun

end EveryCommandAnswered

/-- Settles O8: a block that is not ready waits or is reset first, and the reset makes it ready in accept. -/
theorem everyCommandIsAnsweredExactlyOnce : Obligations.EveryCommandIsAnsweredExactlyOnce := by
  unfold Obligations.EveryCommandIsAnsweredExactlyOnce
  rintro s hinv (hs | hidle | ⟨rest, hreset⟩)
  · exact AnswersAllActions.of_ready hs (hinv hs)
  · exact AnswersAllActions.of_idle hidle
  · exact AnswersAllActions.of_reset hreset (.of_ready rfl (legalStateCode_applyReset _))

section IssuedCommands

variable {s t : State} {commands : List Instr}

/-- The row of a command's opcode holds the command's format, its legality check and the command itself. -/
theorem rowOf_opcodeOf (i : Instr) :
    ∃ row, rowOf (opcodeOf i) = some row ∧ row.format = formatOf i ∧ row.legal (argOf i) = i.wellFormed ∧
      row.build (argOf i) = i := by
  cases i <;> exact ⟨_, rfl, rfl, by simp [argOf, Instr.wellFormed], by simp [argOf]⟩

/-- The encoded word of a command holds its opcode and sets no reserved bit. -/
theorem encode_fields (i : Instr) : Laws.EncodedFields.Statement i := by
  cases i with
  | nop => exact Laws.EncodedFields.nop
  | crcSeed word => exact Laws.EncodedFields.crcSeed word
  | crcFeed8 byte => exact Laws.EncodedFields.crcFeed8 byte
  | crcFeed32 word => exact Laws.EncodedFields.crcFeed32 word
  | crcRead => exact Laws.EncodedFields.crcRead
  | crcCheck => exact Laws.EncodedFields.crcCheck
  | crcTable byte => exact Laws.EncodedFields.crcTable byte
  | u8Clear => exact Laws.EncodedFields.u8Clear
  | u8Load byte => exact Laws.EncodedFields.u8Load byte
  | u8Feed8 byte => exact Laws.EncodedFields.u8Feed8 byte
  | u8Status => exact Laws.EncodedFields.u8Status
  | u8Class idx => exact Laws.EncodedFields.u8Class idx
  | u8Trans idx => exact Laws.EncodedFields.u8Trans idx

@[simp] theorem argField_encode (i : Instr) : argField (encode i) = argOf i := argField_commandWord _ _

theorem decode_encode {i : Instr} (hi : i.wellFormed = true) : decode (encode i) = .ok i := by
  obtain ⟨row, hrow, hformat, hlegal, hbuild⟩ := rowOf_opcodeOf i
  obtain ⟨hop, hreserved⟩ := encode_fields i
  rw [argField_encode] at hreserved
  simp only [decode, hop, hrow, hformat, argField_encode, hreserved, hlegal, hi, hbuild, if_true]

theorem State.issue_cons_host (s : State) (i : Instr) (rest : List Instr) :
    (s.issue (i :: rest)).host = .command (encode i) :: (s.issue rest).host := rfl

/-- A command runs the same whatever else the host has issued after it. -/
theorem exec_issue {i : Instr} (h : exec i s = .next t) : exec i (s.issue commands) = .next (t.issue commands) := by
  obtain ⟨r, hr, hagain⟩ := exec_ignoresHistory i s t h
  have hissued := hagain (s.issue commands).host s.responses
  rw [← hr, State.issue, ← exec_keeps_host h] at hissued
  rw [State.issue, ← exec_keeps_host h]
  exact hissued

/-- The port runs the well-formed commands the host issues one after another, one step each (30_encoding.md R60). -/
theorem runSteps_issue (hwf : ∀ i ∈ commands, i.wellFormed = true) (h : execAll commands s = .next t) :
    runSteps commands.length (s.issue commands) = .next t := by
  induction commands generalizing s with
  | nil => exact h
  | cons i rest ih =>
    obtain ⟨u, hi, hrest⟩ := execAll_cons_eq_next h
    obtain ⟨hwfi, hwfrest⟩ := List.forall_mem_cons.1 hwf
    have hstep : step (s.issue (i :: rest)) = .next (u.issue rest) :=
      (step_legal (s.issue_cons_host i rest) (decode_encode hwfi)).trans (exec_issue hi)
    rw [List.length_cons, runSteps_next hstep]
    exact ih hwfrest hrest

end IssuedCommands

/-- The command is one the encoding can spell, and every ready block answers it `data` and changes nothing else. -/
def AlwaysAnswers (i : Instr) (data : Word) : Prop :=
  i.wellFormed = true ∧ ∀ s : State, s.phase = .ready → exec i s = .next (s.respond true data)

section TableCalls

variable {s : State}

theorem crcTable_alwaysAnswers (byte : Byte) : AlwaysAnswers (.crcTable byte) (crcT byte) :=
  ⟨rfl, fun _ hs => ceAnswer_ready (g := fun _ => crcT byte) hs⟩

theorem u8Class_alwaysAnswers (idx : Index) : AlwaysAnswers (.u8Class idx) (zext32 (u8ClassT idx)) :=
  ⟨rfl, fun _ hs => ueAnswer_ready (k := fun _ => zext32 (u8ClassT idx)) hs⟩

theorem u8Trans_alwaysAnswers {idx : Index} {entry : Byte} (h : u8TransT idx.toNat = some entry) :
    AlwaysAnswers (.u8Trans idx) (zext32 entry) := by
  constructor
  · obtain ⟨hk, -⟩ := List.getElem?_eq_some_iff.1 h
    rw [u8TransRom_length] at hk
    simp only [Instr.wellFormed, transIndexInRange, decide_eq_true_eq]
    omega
  · intro s hs
    simp only [exec, execU8Trans, h]
    exact ueAnswer_ready (k := fun _ => zext32 entry) hs

theorem execAll_of_alwaysAnswers {commands : List Instr} {values : List Word}
    (h : List.Forall₂ AlwaysAnswers commands values) (hs : s.phase = .ready) :
    execAll commands s = .next { s with responses := s.responses ++ values.map (fun v => ⟨true, v⟩) } := by
  induction h generalizing s with
  | nil => simp [execAll]
  | cons hi _ ih =>
    obtain ⟨-, hexec⟩ := hi
    rw [execAll_next (hexec s hs), ih (s := s.respond true _) hs]
    simp [State.respond]

/-- Issuing the reads of a whole table in order answers the table and changes nothing else (30_encoding.md R70). -/
theorem runSteps_tableCommands {α : Type} {table : List α} {n : Nat} {read : Nat → Instr} {value : α → Word}
    (hn : table.length = n) (hread : ∀ (k : Nat) (hk : k < table.length), AlwaysAnswers (read k) (value table[k]))
    (hs : s.phase = .ready) :
    runSteps n (s.issue ((List.range n).map read)) =
      .next { s with responses := s.responses ++ table.map (fun entry => ⟨true, value entry⟩) } := by
  subst hn
  have hanswers : List.Forall₂ AlwaysAnswers ((List.range table.length).map read) (table.map value) := by
    refine List.forall₂_iff_get.2 ⟨by simp, fun k hk hv => ?_⟩
    simpa using hread k (by simpa using hk)
  have hwf : ∀ i ∈ (List.range table.length).map read, i.wellFormed = true := by
    intro i hi
    obtain ⟨k, hk, rfl⟩ := List.mem_map.1 hi
    exact (hread k (List.mem_range.1 hk)).1
  have hrun := runSteps_issue hwf (execAll_of_alwaysAnswers hanswers hs)
  rw [List.length_map, List.length_range, List.map_map] at hrun
  exact hrun

/-- The stored table is the constructed one (40_crc32c.md R101, R103). -/
theorem crcRom_eq_buildCrc32cTable : crcRom = buildCrc32cTable := by decide +kernel

/-- The table read at an index written as a number. -/
theorem crcT_ofNat {k : Nat} (hk : k < crcRom.length) : crcT (BitVec.ofNat 8 k) = crcRom[k] := by
  have hlt : k < 256 := crcRom_length ▸ hk
  simp only [crcT, BitVec.toNat_ofNat, Nat.mod_eq_of_lt hlt]

theorem u8ClassT_ofNat {k : Nat} (hk : k < u8ClassRom.length) : u8ClassT (BitVec.ofNat 7 k) = u8ClassRom[k] := by
  have hlt : k < 128 := u8ClassRom_length ▸ hk
  simp only [u8ClassT, BitVec.toNat_ofNat, Nat.mod_eq_of_lt hlt]

theorem u8TransT_ofNat {k : Nat} (hk : k < u8TransRom.length) :
    u8TransT (BitVec.ofNat 7 k).toNat = some u8TransRom[k] := by
  have hlt : k < 128 := by rw [u8TransRom_length] at hk; omega
  rw [BitVec.toNat_ofNat, Nat.mod_eq_of_lt hlt]
  exact List.getElem?_eq_getElem hk

end TableCalls

/-- Settles O59: each call reads one stored table in order, and the stored CRC table is the constructed one. -/
theorem tableCallsReturnTheTables : Obligations.TableCallsReturnTheTables := by
  unfold Obligations.TableCallsReturnTheTables
  intro s hs
  rw [← crcRom_eq_buildCrc32cTable]
  refine ⟨runSteps_tableCommands (value := id) crcRom_length (fun k hk => ?_) hs,
    runSteps_tableCommands (value := zext32) u8ClassRom_length (fun k hk => ?_) hs,
    runSteps_tableCommands (value := zext32) u8TransRom_length (fun k hk => ?_) hs⟩
  · rw [← crcT_ofNat hk]
    exact crcTable_alwaysAnswers _
  · rw [← u8ClassT_ofNat hk]
    exact u8Class_alwaysAnswers _
  · exact u8Trans_alwaysAnswers (u8TransT_ofNat hk)

end Sys2Proof.Machine

/-! CRC-32C as arithmetic: the rounds of the table construction are linear over XOR (40_crc32c.md R101, R102), the byte
step is eight of them (R104), and what follows for whole messages (R106-R109, R116). -/

namespace Sys2Proof.Machine

section Rounds

/-- A round shifts, and XORs the polynomial in where the bit shifted out is 1; both are linear. -/
theorem crcRound_xor (x y : Word) : crcRound (x ^^^ y) = crcRound x ^^^ crcRound y := by
  unfold crcRound
  rw [BitVec.getLsbD_xor, BitVec.ushiftRight_xor_distrib]
  cases x.getLsbD 0 <;> cases y.getLsbD 0
  · simp
  · simp [BitVec.xor_assoc]
  · simp only [Bool.bne_false, if_true, Bool.false_eq_true, if_false]
    ac_rfl
  · simp only [bne_self_eq_false, if_true, Bool.false_eq_true, if_false]
    calc x >>> 1 ^^^ y >>> 1 = x >>> 1 ^^^ y >>> 1 ^^^ (crcPolynomial ^^^ crcPolynomial) := by simp
      _ = x >>> 1 ^^^ crcPolynomial ^^^ (y >>> 1 ^^^ crcPolynomial) := by ac_rfl

theorem crcRounds_xor (n : Nat) (x y : Word) : crcRounds n (x ^^^ y) = crcRounds n x ^^^ crcRounds n y := by
  induction n generalizing x y with
  | zero => rfl
  | succ n ih => rw [crcRounds, crcRound_xor, ih]; rfl

/-- Rounds over bits that are all 0 only shift. -/
theorem crcRounds_of_lowBits_zero {n : Nat} {x : Word} (h : ∀ k < n, x.getLsbD k = false) :
    crcRounds n x = x >>> n := by
  induction n generalizing x with
  | zero => rfl
  | succ n ih =>
    have hround : crcRound x = x >>> 1 := by
      rw [crcRound, h 0 n.succ_pos, if_neg Bool.false_ne_true]
    have hshifted : ∀ k < n, (x >>> 1).getLsbD k = false := by
      intro k hk
      rw [BitVec.getLsbD_ushiftRight]
      exact h (1 + k) (by omega)
    rw [crcRounds, hround, ih hshifted, ← BitVec.shiftRight_add, Nat.add_comm]

/-- The stored entry is the constructed one (40_crc32c.md R101). -/
theorem crcT_eq_crcTableEntry (i : Byte) : crcT i = crcTableEntry i := by
  have hk : i.toNat < crcRom.length := by rw [crcRom_length]; exact i.isLt
  have hread : crcT i = crcRom[i.toNat] := rfl
  simp [hread, crcRom_eq_buildCrc32cTable, buildCrc32cTable]

/-- The entry of an XOR is the XOR of the entries (40_crc32c.md R102). -/
theorem crcT_xor (a b : Byte) : crcT (a ^^^ b) = crcT a ^^^ crcT b := by
  simp only [crcT_eq_crcTableEntry, crcTableEntry, zext32, BitVec.setWidth_xor, crcRounds_xor]

end Rounds

/-- Settles O36: the kernel evaluates the 256 constructions and compares. -/
theorem storedCrcTableIsTheConstruction : Obligations.StoredCrcTableIsTheConstruction :=
  crcRom_eq_buildCrc32cTable

/-- Settles O37: every entry is rounds of its index, and rounds are linear. -/
theorem crcTableIsLinear : Obligations.CrcTableIsLinear := by
  unfold Obligations.CrcTableIsLinear
  exact ⟨crcT_eq_crcTableEntry, by decide, by decide, crcT_xor⟩

section ByteStep

/-- A word is its upper three bytes over its lowest one. -/
theorem upperBytes_xor_byteOperand (w : Word) : (w >>> 8 <<< 8) ^^^ zext32 (byteOperand w) = w := by
  apply BitVec.eq_of_getLsbD_eq
  intro k hk
  by_cases hlow : k < 8
  · simp [zext32, byteOperand, hk, hlow]
  · simp [zext32, byteOperand, hk, hlow, Nat.add_sub_cancel' (Nat.le_of_not_lt hlow)]

@[simp] theorem byteOperand_xor (x y : Word) : byteOperand (x ^^^ y) = byteOperand x ^^^ byteOperand y := by
  simp [byteOperand, BitVec.extractLsb'_xor]

/-- 8 rounds shift the upper three bytes down and make the lowest one its table entry. -/
theorem crcRounds_eight (w : Word) : crcRounds 8 w = (w >>> 8) ^^^ crcTableEntry (byteOperand w) := by
  have hlow : ∀ k < 8, (w >>> 8 <<< 8).getLsbD k = false := by
    intro k hk
    simp [hk]
  have hupper : w >>> 8 <<< 8 >>> 8 = w >>> 8 := by
    apply BitVec.eq_of_getLsbD_eq
    intro k hk
    by_cases hin : 8 + k < 32
    · simp [hin]
    · simp [hin, BitVec.getLsbD_of_ge w (8 + k) (by omega)]
  conv_lhs => rw [← upperBytes_xor_byteOperand w]
  rw [crcRounds_xor, crcRounds_of_lowBits_zero hlow, hupper, crcTableEntry]

theorem crcStep_eq_crcRounds (crc : Word) (b : Byte) : crcStep crc b = crcRounds 8 (crc ^^^ zext32 b) := by
  have hshift : zext32 b >>> 8 = 0#32 := by
    apply BitVec.eq_of_getLsbD_eq
    intro k hk
    simp [zext32]
  rw [crcRounds_eight, BitVec.ushiftRight_xor_distrib, hshift, BitVec.xor_zero, byteOperand_xor, byteOperand_zext32,
    ← crcT_eq_crcTableEntry, crcStep]

/-- The byte step reads the entry that the construction gives (40_crc32c.md R101, R104). -/
theorem crcStep_eq_crcStepByTable (crc : Word) (b : Byte) : crcStep crc b = crcStepByTable crc b := by
  have hindex : ((crc &&& 0xFF#32) ^^^ zext32 b).setWidth 8 = byteOperand crc ^^^ b := by
    apply BitVec.eq_of_getLsbD_eq
    intro k hk
    have hmask : ∀ j < 8, (0xFF#32).getLsbD j = true := by decide
    have hin : k < 32 := by omega
    simp only [zext32, byteOperand, BitVec.getLsbD_setWidth, BitVec.getLsbD_xor, BitVec.getLsbD_and,
      BitVec.getLsbD_extractLsb', Nat.zero_add, hmask k hk, hk, hin, decide_true, Bool.true_and, Bool.and_true]
  rw [crcStep, crcStepByTable, hindex, crcT_eq_crcTableEntry]

end ByteStep

/-- Settles O38: rounds are linear, the upper three bytes only shift, and the lowest one is a table index. -/
theorem byteStepIsEightBitRounds : Obligations.ByteStepIsEightBitRounds := by
  unfold Obligations.ByteStepIsEightBitRounds
  exact crcStep_eq_crcRounds

section WordFeed

variable {r w : Word}

/-- What is left of a word XORed into the register feeds its lowest byte; the rest of it waits, shifted down. -/
theorem crcStep_xor_zero (k : Nat) :
    crcStep (r ^^^ w >>> (8 * k)) 0#8 = crcStep r (wordByte w k) ^^^ w >>> (8 * (k + 1)) := by
  have hbyte : byteOperand (w >>> (8 * k)) = wordByte w k := by
    apply BitVec.eq_of_getLsbD_eq
    intro j hj
    simp [byteOperand, wordByte, hj]
  rw [crcStep, crcStep, byteOperand_xor, hbyte, BitVec.xor_zero, BitVec.ushiftRight_xor_distrib, Nat.mul_succ,
    BitVec.shiftRight_add]
  ac_rfl

/-- Zero bytes feed the bytes of a word XORed into the register, in stream order. -/
theorem crcSteps_xor_zeros (n k : Nat) :
    crcSteps (r ^^^ w >>> (8 * k)) (List.replicate n 0#8) =
      crcSteps r ((List.range' k n).map (wordByte w)) ^^^ w >>> (8 * (k + n)) := by
  induction n generalizing r k with
  | zero => rfl
  | succ n ih =>
    rw [List.replicate_succ, List.range'_succ, List.map_cons, crcSteps, crcSteps, crcStep_xor_zero, ih,
      Nat.add_right_comm, Nat.add_assoc]

/-- Feeding a word is XORing it into the register and feeding four zero bytes (40_crc32c.md R116). -/
theorem crcSteps_le32 (r w : Word) :
    crcSteps r (le32 w) = crcSteps (r ^^^ w) [0x00#8, 0x00#8, 0x00#8, 0x00#8] := by
  have hgone : w >>> 32 = 0#32 := BitVec.ushiftRight_eq_zero (Nat.le_refl 32)
  have hzeros : crcSteps (r ^^^ w) (List.replicate 4 0#8) = crcSteps r (le32 w) ^^^ w >>> 32 :=
    crcSteps_xor_zeros 4 0
  rw [hgone, BitVec.xor_zero] at hzeros
  exact hzeros.symm

end WordFeed

section Messages

/-- Two calls in sequence are one call on the concatenation, since the seed of the second is complemented back
(40_crc32c.md R108). -/
theorem crc32cUpdate_append (seed : Word) (a b : List Byte) :
    crc32cUpdate seed (a ++ b) = crc32cUpdate (crc32cUpdate seed a) b := by
  simp only [crc32cUpdate, crcSteps_append, BitVec.not_not]

/-- Four zero bytes from the register of seed 0 (40_crc32c.md R106). -/
theorem crcSteps_allOnes_zeros :
    crcSteps (BitVec.allOnes 32) [0x00#8, 0x00#8, 0x00#8, 0x00#8] = 0xB798B438#32 := by decide

/-- Whatever the register, feeding its complement leads to one and the same register (40_crc32c.md R109). -/
theorem crcSteps_le32_not (crc : Word) : crcSteps crc (le32 (~~~crc)) = 0xB798B438#32 := by
  have hones : crc ^^^ ~~~crc = BitVec.allOnes 32 := by
    rw [← BitVec.xor_allOnes, ← BitVec.xor_assoc, BitVec.xor_self, BitVec.zero_xor]
  rw [crcSteps_le32, hones, crcSteps_allOnes_zeros]

/-- That register is the one whose finalised value is `CRC_OK_REM` (40_crc32c.md R106). -/
theorem finalised_residue : finalised 0xB798B438#32 = crcOkRem := by decide

end Messages

/-- Settles O39: the register is evaluated, and its complement is the constant. -/
theorem residueConstantValue : Obligations.ResidueConstantValue := by
  unfold Obligations.ResidueConstantValue
  refine ⟨?_, crcSteps_allOnes_zeros, rfl⟩
  calc crc32cUpdate 0#32 [0x00#8, 0x00#8, 0x00#8, 0x00#8]
      = finalised (crcSteps (BitVec.allOnes 32) [0x00#8, 0x00#8, 0x00#8, 0x00#8]) := rfl
    _ = crcOkRem := by rw [crcSteps_allOnes_zeros, finalised_residue]

/-- Settles O40: the complements between two calls cancel; the two calls of the example of 90_conflicts.md C1 are run. -/
theorem checksumIsComposable : Obligations.ChecksumIsComposable := by
  unfold Obligations.ChecksumIsComposable
  exact ⟨fun _ => BitVec.not_not, fun seed a b => (crc32cUpdate_append seed a b).symm, by decide, by decide⟩

/-- Settles O41: each of the four steps takes one byte of the word out of the register, and none is left. -/
theorem wordFeedLemma : Obligations.WordFeedLemma := by
  unfold Obligations.WordFeedLemma
  exact crcSteps_le32

/-- Settles O42: the checksum is the complement of the register it is fed to. -/
theorem selfVerifyingRecord : Obligations.SelfVerifyingRecord := by
  unfold Obligations.SelfVerifyingRecord
  intro c0 a
  calc crc32cUpdate c0 (a ++ le32 (crc32cUpdate c0 a))
      = crc32cUpdate (crc32cUpdate c0 a) (le32 (crc32cUpdate c0 a)) := crc32cUpdate_append c0 a _
    _ = finalised 0xB798B438#32 := by
      rw [crc32cUpdate, crc32cUpdate, BitVec.not_not, crcSteps_le32_not, finalised]
    _ = 0x48674BC7#32 := finalised_residue

end Sys2Proof.Machine

/-! The commands of the CRC engine: what each answers and how each command word with its opcode is decoded (40_crc32c.md
R110-R115), and streams of them (R112, R119; 30_encoding.md R69). -/

namespace Sys2Proof.Machine

section CommandWords

variable {s : State} {op : Byte} {arg : Word} {row : OpcodeRow} {rest : List HostAction}

theorem decode_commandWord (hrow : rowOf op = some row) (hlegal : row.legal arg = true) :
    decode (commandWord op arg) =
      if arg &&& reservedMask row.format = 0#32 then .ok (row.build arg) else .error .illegalReserved := by
  simp only [decode, opcodeField_commandWord, argField_commandWord, hrow, hlegal, if_true]

/-- A word of an assigned opcode, where only a reserved bit can make it illegal (60_exceptions.md R201, R202). -/
theorem step_commandWord (hs : s.phase = .ready) (hhost : s.host = .command (commandWord op arg) :: rest)
    (hrow : rowOf op = some row) (hlegal : row.legal arg = true) :
    step s = if arg &&& reservedMask row.format = 0#32 then exec (row.build arg) { s with host := rest }
      else .next (s.afterCommand rest s.crcState s.u8State ⟨false, 2#32⟩) := by
  have hdecode := decode_commandWord hrow hlegal
  split_ifs at hdecode ⊢
  · exact step_legal hhost hdecode
  · exact (step_illegal hhost hdecode).trans (raiseIllegal_ready hs)

/-- Format FMT_N reserves the whole argument (30_encoding.md R62). -/
theorem step_commandWord_fmtN (hs : s.phase = .ready) (hhost : s.host = .command (commandWord op arg) :: rest)
    (hrow : rowOf op = some row) (hlegal : row.legal arg = true) (hformat : row.format = .fmtN) :
    step s = if arg = 0#32 then exec (row.build arg) { s with host := rest }
      else .next (s.afterCommand rest s.crcState s.u8State ⟨false, 2#32⟩) := by
  have hmask : arg &&& reservedMask .fmtN = arg := BitVec.and_allOnes
  rw [step_commandWord hs hhost hrow hlegal, hformat, hmask]

/-- Format FMT_B reserves the bits above the byte operand (30_encoding.md R62). -/
theorem step_commandWord_fmtB (hs : s.phase = .ready) (hhost : s.host = .command (commandWord op arg) :: rest)
    (hrow : rowOf op = some row) (hlegal : row.legal arg = true) (hformat : row.format = .fmtB) :
    step s = if arg.extractLsb' 8 24 = 0#24 then exec (row.build arg) { s with host := rest }
      else .next (s.afterCommand rest s.crcState s.u8State ⟨false, 2#32⟩) := by
  have hmask : arg &&& reservedMask .fmtB = 0#32 ↔ arg.extractLsb' 8 24 = 0#24 := and_highMask_eq_zero_iff arg 8
  rw [step_commandWord hs hhost hrow hlegal, hformat]
  exact if_congr hmask rfl rfl

/-- Format FMT_W reserves nothing, so the word runs its command even before the first reset. -/
theorem step_commandWord_fmtW (hhost : s.host = .command (commandWord op arg) :: rest)
    (hrow : rowOf op = some row) (hlegal : row.legal arg = true) (hformat : row.format = .fmtW) :
    step s = exec (row.build arg) { s with host := rest } := by
  have hmask : arg &&& reservedMask row.format = 0#32 := by rw [hformat]; exact BitVec.and_zero
  exact step_legal hhost ((decode_commandWord hrow hlegal).trans (if_pos hmask))

end CommandWords

/-- Settles O23: CRC_SEED answers the finalised register, which is the word again. -/
theorem crcSeedLoadsTheComplement : Obligations.CrcSeedLoadsTheComplement := by
  unfold Obligations.CrcSeedLoadsTheComplement
  refine ⟨fun s word hs => ?_, fun s arg rest hhost => step_commandWord_fmtW hhost rfl rfl rfl⟩
  have hword : finalised (~~~word) = word := BitVec.not_not
  rw [exec_crcSeed_ready hs, hword]
  rfl

/-- Settles O24: the stored table is the constructed one, and FMT_B reserves the bits above the byte. -/
theorem crcFeed8ConsumesOneByte : Obligations.CrcFeed8ConsumesOneByte := by
  unfold Obligations.CrcFeed8ConsumesOneByte
  refine ⟨fun s byte hs => ?_, fun s arg rest hs hhost => step_commandWord_fmtB hs hhost rfl rfl rfl⟩
  rw [exec_crcFeed8_ready hs, crcStep_eq_crcStepByTable]
  rfl

/-- Settles O25: the four bytes of `le32` are the steps in order, and FMT_W reserves nothing. -/
theorem crcFeed32ConsumesFourBytes : Obligations.CrcFeed32ConsumesFourBytes := by
  unfold Obligations.CrcFeed32ConsumesFourBytes
  refine ⟨fun s word crc hs hcrc => ?_, fun s arg rest hhost => step_commandWord_fmtW hhost rfl rfl rfl⟩
  have hsteps : crcSteps s.crcState (le32 word) = crc := by
    simp only [hcrc, le32, crcSteps, wordByte, crcStep_eq_crcStepByTable]
  rw [exec_crcFeed32_ready hs, hsteps]
  rfl

/-- Settles O26: CRC_READ only answers, and FMT_N reserves the whole argument. -/
theorem crcReadAnswersTheFinalisedValue : Obligations.CrcReadAnswersTheFinalisedValue := by
  unfold Obligations.CrcReadAnswersTheFinalisedValue
  exact ⟨fun s hs => exec_crcRead_ready hs, fun s arg rest hs hhost => step_commandWord_fmtN hs hhost rfl rfl rfl⟩

/-- CRC_CHECK answers the comparison and changes nothing else (40_crc32c.md R114). -/
theorem exec_crcCheck_ready {s : State} (hs : s.phase = .ready) :
    exec .crcCheck s = .next (s.respond true (checkWord s.crcState)) :=
  ceAnswer_ready hs

/-- Settles O27: CRC_CHECK only answers, and FMT_N reserves the whole argument. -/
theorem crcCheckComparesWithTheResidue : Obligations.CrcCheckComparesWithTheResidue := by
  unfold Obligations.CrcCheckComparesWithTheResidue
  exact ⟨fun s hs => exec_crcCheck_ready hs, fun s arg rest hs hhost => step_commandWord_fmtN hs hhost rfl rfl rfl⟩

/-- Settles O28: the stored entry is the constructed one, and FMT_B reserves the bits above the index. -/
theorem crcTableReadsBackOneEntry : Obligations.CrcTableReadsBackOneEntry := by
  unfold Obligations.CrcTableReadsBackOneEntry
  refine ⟨fun s byte hs => ?_, fun s arg rest hs hhost => step_commandWord_fmtB hs hhost rfl rfl rfl⟩
  obtain ⟨-, hanswers⟩ := crcTable_alwaysAnswers byte
  rw [hanswers s hs, crcT_eq_crcTableEntry]
  rfl

/-- Settles O43: the read answers the complement, which leads the word feed to the register of the residue. -/
theorem appendedRecordPassesTheCheck : Obligations.AppendedRecordPassesTheCheck := by
  unfold Obligations.AppendedRecordPassesTheCheck
  intro s hs
  have hread : exec .crcRead s = .next (s.respond true (~~~s.crcState)) := exec_crcRead_ready hs
  have hfeed := exec_crcFeed32_ready (s := s.respond true (~~~s.crcState)) (word := ~~~s.crcState) hs
  rw [State.respond_crcState, crcSteps_le32_not, finalised_residue] at hfeed
  refine ⟨_, (execAll_next hread).trans ((execAll_next hfeed).trans (execAll_next (exec_crcCheck_ready hs))), ?_⟩
  have hcheck : checkWord 0xB798B438#32 = 1#32 := if_pos finalised_residue
  simp [hcheck, crcOkRem]

section CrcStreams

variable {i : Instr} {commands a b : List Instr} {s t : State}

theorem execAll_append (h : execAll a s = .next t) : execAll (a ++ b) s = execAll b t := by
  induction a generalizing s with
  | nil => cases h; rfl
  | cons i rest ih =>
    obtain ⟨u, hi, hrest⟩ := execAll_cons_eq_next h
    rw [List.cons_append, execAll_next hi, ih hrest]

theorem execAll_append_eq_next (h : execAll (a ++ b) s = .next t) :
    ∃ u, execAll a s = .next u ∧ execAll b u = .next t := by
  induction a generalizing s with
  | nil => exact ⟨s, rfl, h⟩
  | cons i rest ih =>
    obtain ⟨v, hi, hrest⟩ := execAll_cons_eq_next h
    obtain ⟨u, ha, hb⟩ := ih hrest
    exact ⟨u, (execAll_next hi).trans ha, hb⟩

/-- A run gives each command one response, and reads none of the earlier ones. -/
theorem execAll_ignoresEarlierResponses (h : execAll commands s = .next t) :
    ∃ rs, t.responses = s.responses ++ rs ∧ rs.length = commands.length ∧
      ∀ earlier : List Response,
        execAll commands { s with responses := earlier } = .next { t with responses := earlier ++ rs } := by
  induction commands generalizing s with
  | nil =>
    cases h
    exact ⟨[], (List.append_nil _).symm, rfl, fun earlier => by rw [List.append_nil]; rfl⟩
  | cons i rest ih =>
    obtain ⟨u, hi, hrest⟩ := execAll_cons_eq_next h
    obtain ⟨r, hr, hagain⟩ := exec_ignoresHistory i s u hi
    obtain ⟨rs, hrs, hlength, hrestAgain⟩ := ih hrest
    refine ⟨r :: rs, by simp [hrs, hr], by simp [hlength], fun earlier => ?_⟩
    have hfirst : exec i { s with responses := earlier } = .next { u with responses := earlier ++ [r] } := by
      rw [exec_keeps_host hi]
      exact hagain s.host earlier
    rw [execAll_next hfirst, hrestAgain]
    simp

/-- A command that starts no message steps the register by the bytes it feeds (40_crc32c.md R119). -/
theorem exec_crcState (hi : startsCrcMessage i = false) (h : exec i s = .next t) :
    t.crcState = crcSteps s.crcState (crcFed i) := by
  cases i with
  | crcSeed => cases hi
  | crcFeed8 byte => rw [(ceUpdate_eq_next (f := fun crc => crcStep crc byte) h).2]; rfl
  | crcFeed32 word => rw [(ceUpdate_eq_next (f := fun crc => crcSteps crc (le32 word)) h).2]; rfl
  | nop | crcRead | crcCheck | crcTable | u8Status | u8Class | u8Trans =>
    obtain ⟨r, rfl⟩ := exec_onlyAnswers rfl s t h
    rfl
  | u8Clear | u8Load | u8Feed8 =>
    obtain ⟨-, -, -, hce, -⟩ := exec_staysWithin _ s t h
    exact (hce (by simp [engineOf])).1

theorem execAll_crcState (hcommands : ∀ i ∈ commands, startsCrcMessage i = false)
    (h : execAll commands s = .next t) : t.crcState = crcSteps s.crcState (commands.flatMap crcFed) := by
  induction commands generalizing s with
  | nil => cases h; rfl
  | cons i rest ih =>
    obtain ⟨hi, hrest⟩ := List.forall_mem_cons.1 hcommands
    obtain ⟨u, hexec, hrun⟩ := execAll_cons_eq_next h
    rw [ih hrest hrun, exec_crcState hi hexec, List.flatMap_cons, crcSteps_append]

theorem execAll_keeps_host (h : execAll commands s = .next t) : t.host = s.host := by
  induction commands generalizing s with
  | nil => cases h; rfl
  | cons i rest ih =>
    obtain ⟨u, hi, hrest⟩ := execAll_cons_eq_next h
    exact (ih hrest).trans (exec_keeps_host hi)

/-- Byte feeds step the register by their bytes and give one response each (40_crc32c.md R111). -/
theorem execAll_crcFeedN (d : List Byte) (hs : s.phase = .ready) :
    ∃ rs, rs.length = d.length ∧
      execAll (crcFeedN d) s =
        .next { s with crcState := crcSteps s.crcState d, responses := s.responses ++ rs } := by
  induction d generalizing s with
  | nil => exact ⟨[], rfl, by rw [List.append_nil]; rfl⟩
  | cons b d ih =>
    obtain ⟨rs, hlength, hrun⟩ := ih (s := (s.writeCrc (crcStep s.crcState b)).respond true
      (finalised (crcStep s.crcState b))) hs
    refine ⟨⟨true, finalised (crcStep s.crcState b)⟩ :: rs, by simp [hlength], ?_⟩
    rw [List.append_cons]
    exact (execAll_next (exec_crcFeed8_ready hs)).trans hrun

/-- A run that ends with a byte feed has the finalised register as its last response (40_crc32c.md R111). -/
theorem getLast?_responses_of_crcFeed8 {byte : Byte} (hlast : commands.getLast? = some (.crcFeed8 byte))
    (h : execAll commands s = .next t) : t.responses.getLast? = some ⟨true, finalised t.crcState⟩ := by
  obtain ⟨init, rfl⟩ := List.getLast?_eq_some_iff.1 hlast
  obtain ⟨u, -, hfeed⟩ := execAll_append_eq_next h
  obtain ⟨v, hv, hdone⟩ := execAll_cons_eq_next hfeed
  cases hdone
  rw [(ceUpdate_eq_next (f := fun crc => crcStep crc byte) hv).2]
  exact List.getLast?_concat

theorem extractLsb'_append_byte_zero {m : Nat} (u : BitVec m) (b : Byte) : (u ++ b).extractLsb' 0 8 = b := by
  rw [BitVec.extractLsb'_append_eq_of_add_le (Nat.le_refl 8), BitVec.extractLsb'_eq_self]

theorem extractLsb'_append_byte_succ {m : Nat} (u : BitVec m) (b : Byte) (k : Nat) :
    (u ++ b).extractLsb' (8 * (k + 1)) 8 = u.extractLsb' (8 * k) 8 := by
  rw [BitVec.extractLsb'_append_eq_of_le (Nat.le_mul_of_pos_right 8 k.succ_pos), Nat.mul_succ, Nat.add_sub_cancel]

/-- The bytes of a word in stream order, from the word written most significant first (20_memory.md R43). -/
theorem le32_append (b0 b1 b2 b3 : Byte) : le32 (b3 ++ b2 ++ b1 ++ b0) = [b0, b1, b2, b3] := by
  have h0 : wordByte (b3 ++ b2 ++ b1 ++ b0) 0 = b0 := extractLsb'_append_byte_zero _ b0
  have h1 : wordByte (b3 ++ b2 ++ b1 ++ b0) 1 = b1 :=
    (extractLsb'_append_byte_succ _ b0 0).trans (extractLsb'_append_byte_zero _ b1)
  have h2 : wordByte (b3 ++ b2 ++ b1 ++ b0) 2 = b2 :=
    (extractLsb'_append_byte_succ _ b0 1).trans
      ((extractLsb'_append_byte_succ _ b1 0).trans (extractLsb'_append_byte_zero b3 b2))
  have h3 : wordByte (b3 ++ b2 ++ b1 ++ b0) 3 = b3 :=
    (extractLsb'_append_byte_succ _ b0 2).trans
      ((extractLsb'_append_byte_succ _ b1 1).trans
        ((extractLsb'_append_byte_succ b3 b2 0).trans BitVec.extractLsb'_eq_self))
  rw [le32, h0, h1, h2, h3]

end CrcStreams

/-- Settles O46: the commands between the seed and the read step the register by the bytes they feed. -/
theorem crcStreamComputesTheReference : Obligations.CrcStreamComputesTheReference := by
  unfold Obligations.CrcStreamComputesTheReference
  intro s seed commands hinv hs hcommands
  obtain ⟨u, hu, hready, -⟩ := execAll_keepsRunning commands
    ((s.writeCrc (~~~seed)).respond true (finalised (~~~seed))) hs (hinv hs)
  have hrun : execAll (.crcSeed seed :: (commands ++ [.crcRead])) s = .next (u.respond true (finalised u.crcState)) :=
    (execAll_next (exec_crcSeed_ready hs)).trans
      ((execAll_append hu).trans (execAll_next (exec_crcRead_ready hready)))
  have hwf : ∀ i ∈ (.crcSeed seed :: (commands ++ [.crcRead]) : List Instr), i.wellFormed = true := by
    intro i hi
    simp only [List.mem_cons, List.mem_append, List.not_mem_nil, or_false] at hi
    obtain rfl | hmem | rfl := hi
    · rfl
    · exact (hcommands i hmem).1
    · rfl
  have hport := runSteps_issue hwf hrun
  rw [List.length_cons, List.length_append] at hport
  have hcrc : u.crcState = crcSteps (~~~seed) (commands.flatMap crcFed) :=
    execAll_crcState (fun i hi => (hcommands i hi).2) hu
  have hanswer : finalised u.crcState = crc32cUpdate seed (commands.flatMap crcFed) := by
    rw [hcrc, finalised, crc32cUpdate]
  have hhost : u.host = s.host := (execAll_keeps_host hu :)
  rw [← hanswer]
  refine ⟨_, hport, hhost, (not_finalised u.crcState).symm, List.getLast?_concat, fun b hb => ?_⟩
  rw [State.respond_responses, List.dropLast_concat]
  exact getLast?_responses_of_crcFeed8 hb hu

/-- Settles O60: the four byte feeds and the word feed differ in the responses they give only, which no later command
reads. -/
theorem replacingByteFeedsByAWordFeedChangesNothingAfter :
    Obligations.ReplacingByteFeedsByAWordFeedChangesNothingAfter := by
  unfold Obligations.ReplacingByteFeedsByAWordFeedChangesNothingAfter
  intro s before after b0 b1 b2 b3 hinv hs
  obtain ⟨v, hv, hready, hlegal⟩ := execAll_keepsRunning before s hs (hinv hs)
  obtain ⟨first, hfirst, hfirstLength, -⟩ := execAll_ignoresEarlierResponses hv
  obtain ⟨middle, hmiddleLength, hbytes⟩ := execAll_crcFeedN [b0, b1, b2, b3] hready
  have hword := exec_crcFeed32_ready (word := b3 ++ b2 ++ b1 ++ b0) hready
  rw [le32_append] at hword
  obtain ⟨t, ht, -, -⟩ := execAll_keepsRunning after
    { v with crcState := crcSteps v.crcState [b0, b1, b2, b3], responses := v.responses ++ middle } hready hlegal
  obtain ⟨last, hlast, hlastLength, hagain⟩ := execAll_ignoresEarlierResponses ht
  refine ⟨t, _, first, middle, [⟨true, finalised (crcSteps v.crcState [b0, b1, b2, b3])⟩], last,
    (execAll_append ((execAll_append hv).trans hbytes)).trans ht,
    (execAll_append ((execAll_append hv).trans (execAll_next hword))).trans (hagain _),
    by rw [hlast, hfirst], by rw [← hfirst]; rfl, hfirstLength, hmiddleLength, rfl, hlastLength, rfl⟩

end Sys2Proof.Machine

/-! The UTF-8 tables as constructed (41_utf8_dfa.md R141-R146), the byte step by classes and listed transitions (R147),
and the source's validators as byte steps (R148, R149). -/

namespace Sys2Proof.Machine

/-- Settles O47: a comparison of the 128 stored entries with the class ranges. -/
theorem storedClassTableIsThePartition : Obligations.StoredClassTableIsThePartition := by
  unfold Obligations.StoredClassTableIsThePartition
  decide +kernel

section StoredTransitions

/-- The stored rows are the listed transitions, and error where none is listed (41_utf8_dfa.md R144-R146). -/
theorem u8TransT_row : ∀ row < 8, ∀ cls < 11,
    u8TransT (11 * row + cls) = some (transEntry (BitVec.ofNat 8 (11 * row)) (BitVec.ofNat 8 cls)) := by
  decide +kernel

theorem u8TransT_eq_none {k : Nat} (hk : 88 ≤ k) : u8TransT k = none :=
  List.getElem?_eq_none (by rw [u8TransRom_length]; exact hk)

theorem legalStateCode_u8TransT {k : Nat} {v : Byte} (h : u8TransT k = some v) : legalStateCode v = true := by
  have all : ∀ entry ∈ u8TransRom, legalStateCode entry = true := by decide
  exact all v (List.mem_of_getElem? h)

/-- A legal code that has a stored row is the row's first index (41_utf8_dfa.md R143). -/
theorem exists_row_of_legalStateCode {code : Byte} (hc : legalStateCode code = true) (he : code ≠ errorCode) :
    ∃ row < 8, code.toNat = 11 * row := by
  have all : ∀ c ∈ stateCodes, c ≠ errorCode → ∃ row < 8, c.toNat = 11 * row := by decide
  exact all code ((legalStateCode_iff code).1 hc) he

/-- The table read at a stored state's code and a class is the constructed transition (41_utf8_dfa.md R145). -/
theorem u8TransT_eq_transEntry {code cls : Byte} (hc : legalStateCode code = true) (he : code ≠ errorCode)
    (hcls : cls.toNat ≤ 10) : u8TransT (code.toNat + cls.toNat) = some (transEntry code cls) := by
  obtain ⟨row, hrow, hcode⟩ := exists_row_of_legalStateCode hc he
  rw [hcode, u8TransT_row row hrow cls.toNat (by omega), ← hcode, BitVec.ofNat_toNat, BitVec.ofNat_toNat,
    BitVec.setWidth_eq, BitVec.setWidth_eq]

end StoredTransitions

/-- Settles O48: the rows are the listed transitions, 88 entries are stored, and each is one of the nine codes. -/
theorem storedTransitionTableIsTheConstruction : Obligations.StoredTransitionTableIsTheConstruction := by
  unfold Obligations.StoredTransitionTableIsTheConstruction
  exact ⟨u8TransT_row, fun _ => u8TransT_eq_none, fun _ _ => legalStateCode_u8TransT⟩

section ByteClasses

variable {code b first last cls : Byte}

/-- A byte at or above 0x80 lies in the range of its stored class and in no other (41_utf8_dfa.md R141, R142). -/
theorem classesMarking_eq (hb : ¬ b < 0x80#8) : classesMarking b = [u8ClassOf b] := by
  have hbyte : 0x80#8 + ((b - 0x80#8).setWidth 7).setWidth 8 = b := by
    apply BitVec.eq_of_toNat_eq
    simp only [BitVec.lt_def, BitVec.toNat_add, BitVec.toNat_setWidth, BitVec.toNat_sub, BitVec.toNat_ofNat] at hb ⊢
    omega
  have hstored : classesMarking (0x80#8 + ((b - 0x80#8).setWidth 7).setWidth 8) = [u8ClassOf b] :=
    storedClassTableIsThePartition _
  rwa [hbyte] at hstored

/-- The class of a byte is read off the range it lies in. -/
theorem u8ClassOf_of_mem_classRanges (hrange : (first, last, cls) ∈ classRanges) (hfirst : first ≤ b)
    (hlast : b ≤ last) : u8ClassOf b = cls := by
  have hhigh : ∀ r ∈ classRanges, 0x80#8 ≤ r.1 := by simp [classRanges]
  have hb : ¬ b < 0x80#8 := BitVec.not_lt.2 (BitVec.le_trans (hhigh _ hrange) hfirst)
  have hmarked : cls ∈ classesMarking b :=
    List.mem_map.2 ⟨_, List.mem_filter.2 ⟨hrange, decide_eq_true ⟨hfirst, hlast⟩⟩, rfl⟩
  rw [classesMarking_eq hb, List.mem_singleton] at hmarked
  exact hmarked.symm

/-- Above ASCII the byte step is the constructed transition on the byte's class. -/
theorem u8Step_eq_transEntry (hc : legalStateCode code = true) (he : code ≠ errorCode) (hb : ¬ b < 0x80#8) :
    u8Step code b = some (transEntry code (u8ClassOf b)) := by
  have hcls : (u8ClassOf b).toNat ≤ 10 := u8ClassT_le _
  rw [u8Step_table he hb, u8TransT_eq_transEntry hc he hcls]

/-- The byte step over the stored tables is the byte step over the class ranges and the listed transitions
(41_utf8_dfa.md R147). -/
theorem u8Step_eq_u8StepByRanges (b : Byte) (hc : legalStateCode code = true) :
    u8Step code b = some (u8StepByRanges code b) := by
  by_cases he : code = errorCode
  · subst he
    rw [u8Step_error, u8StepByRanges, if_pos rfl]
  · by_cases hb : b < 0x80#8
    · rw [u8Step, u8StepByRanges, if_neg he, if_neg he, if_pos hb, if_pos hb]
    · rw [u8Step_eq_transEntry hc he hb, u8StepByRanges, if_neg he, if_neg hb, classesMarking_eq hb]

theorem exists_classRange (hb : ¬ b < 0x80#8) :
    ∃ first last, (first, last, u8ClassOf b) ∈ classRanges ∧ first ≤ b ∧ b ≤ last := by
  have hmarked : u8ClassOf b ∈ classesMarking b := by rw [classesMarking_eq hb]; exact List.mem_singleton_self _
  obtain ⟨⟨first, last, cls⟩, hr, hcls⟩ := List.mem_map.1 hmarked
  obtain ⟨hrange, hin⟩ := List.mem_filter.1 hr
  obtain ⟨hfirst, hlast⟩ := of_decide_eq_true hin
  exact ⟨first, last, hcls ▸ hrange, hfirst, hlast⟩

end ByteClasses

section CornerCases

variable {code b cls : Byte}

theorem transEntry_eq_error (h : ∀ t ∈ definedTransitions, t.1 = code → cls ∉ t.2.1) :
    transEntry code cls = errorCode := by
  have hnone : definedTransitions.find? (fun t => t.1 == code && t.2.1.contains cls) = none :=
    List.find?_eq_none.2 (by simpa using h)
  rw [transEntry, hnone]

/-- A byte on whose class no transition is listed leads to error (41_utf8_dfa.md R144). -/
theorem u8Step_eq_error (hc : legalStateCode code = true) (hb : 0x80#8 ≤ b)
    (h : ∀ t ∈ definedTransitions, t.1 = code → u8ClassOf b ∉ t.2.1) : u8Step code b = some errorCode := by
  by_cases he : code = errorCode
  · rw [he, u8Step_error]
  · rw [u8Step_eq_transEntry hc he (BitVec.not_lt.2 hb), transEntry_eq_error h]

theorem u8Step_lead_pending (hc : legalStateCode code = true) (ha : code ≠ acceptCode) (hfirst : 0xC2#8 ≤ b)
    (hlast : b ≤ 0xF4#8) : u8Step code b = some errorCode := by
  have hb : 0x80#8 ≤ b := BitVec.le_trans (by decide) hfirst
  obtain ⟨first, last, hrange, hin⟩ := exists_classRange (BitVec.not_lt.2 hb)
  have hcls : ∀ r ∈ classRanges, 7 ≤ r.2.2.toNat → r.2.1 < 0xC2#8 ∨ 0xF4#8 < r.1 := by simp [classRanges]
  have hlisted : ∀ t ∈ definedTransitions, t.1 ≠ acceptCode → ∀ cls ∈ t.2.1, 7 ≤ cls.toNat := by decide
  refine u8Step_eq_error hc hb (fun t ht htc hmem => ?_)
  have hdisjoint := hcls _ hrange (hlisted t ht (htc ▸ ha) _ hmem)
  bv_omega

theorem u8Step_continuation_accept (hfirst : 0x80#8 ≤ b) (hlast : b ≤ 0xBF#8) :
    u8Step acceptCode b = some errorCode := by
  obtain ⟨first, last, hrange, hin⟩ := exists_classRange (BitVec.not_lt.2 hfirst)
  have hcls : ∀ r ∈ classRanges, r.2.2.toNat ≤ 6 → 0xBF#8 < r.1 := by simp [classRanges]
  have hlisted : ∀ t ∈ definedTransitions, t.1 = acceptCode → ∀ cls ∈ t.2.1, cls.toNat ≤ 6 := by decide
  refine u8Step_eq_error (by decide) hfirst (fun t ht htc hmem => ?_)
  have hdisjoint := hcls _ hrange (hlisted t ht htc _ hmem)
  bv_omega

/-- The bytes of the class named error lead to error from every code (41_utf8_dfa.md R141, R153). -/
theorem u8Step_neverLegal (hc : legalStateCode code = true) (hb : b = 0xC0#8 ∨ b = 0xC1#8 ∨ 0xF5#8 ≤ b) :
    u8Step code b = some errorCode := by
  have hcls : u8ClassOf b = 10#8 := by
    obtain rfl | rfl | hb := hb
    · rfl
    · rfl
    · exact u8ClassOf_of_mem_classRanges (first := 0xF5#8) (last := 0xFF#8) (by simp [classRanges]) hb (by bv_omega)
  have hlisted : ∀ t ∈ definedTransitions, 10#8 ∉ t.2.1 := by decide
  exact u8Step_eq_error hc (by bv_omega) (fun t ht _ => hcls ▸ hlisted t ht)

/-- The second byte of a surrogate is an error after 0xED (41_utf8_dfa.md R153). -/
theorem u8Steps_surrogate (hfirst : 0xA0#8 ≤ b) (hlast : b ≤ 0xBF#8) :
    u8Steps acceptCode [0xED#8, b] = some errorCode := by
  have hlead : u8Step acceptCode 0xED#8 = some 44#8 := by decide
  have hcls : u8ClassOf b = 9#8 := u8ClassOf_of_mem_classRanges (by simp [classRanges]) hfirst hlast
  have hlisted : ∀ t ∈ definedTransitions, t.1 = 44#8 → 9#8 ∉ t.2.1 := by decide
  have hstep : u8Step 44#8 b = some errorCode :=
    u8Step_eq_error (by decide) (by bv_omega) (fun t ht htc => hcls ▸ hlisted t ht htc)
  simp [u8Steps, hlead, hstep]

end CornerCases

/-- Settles O51: no transition is listed from a pending code on a lead's class, from accept on a continuation's, or from
any code on the class named error. -/
theorem byteStepCornerCases : Obligations.ByteStepCornerCases := by
  unfold Obligations.ByteStepCornerCases
  exact fun code b hc => ⟨u8Step_error b, fun hb => ⟨u8Step_ascii_accept hb, fun ha => u8Step_ascii_pending ha hb⟩,
    fun hfirst hlast ha => u8Step_lead_pending hc ha hfirst hlast, u8Step_continuation_accept,
    u8Step_neverLegal hc, u8Steps_surrogate⟩

section Validators

variable {d : List Byte}

/-- Bytes that lead to error are rejected by both validators. -/
theorem rejected_of_u8Steps_error (h : u8Steps acceptCode d = some errorCode) :
    isValidUtf8 d = false ∧ isValidUtf8Prefix d = false := by
  constructor
  · rw [← Bool.not_eq_true, isValidUtf8_iff_u8Steps, h]
    exact fun heq => errorCode_ne_acceptCode (Option.some.inj heq)
  · rw [← Bool.not_eq_true, isValidUtf8Prefix_iff_u8Steps, h]
    rintro ⟨last, heq, hne⟩
    exact hne (Option.some.inj heq).symm

theorem isValidUtf8Prefix_iff_u8Steps_ne_error (d : List Byte) :
    isValidUtf8Prefix d = true ↔ u8Steps acceptCode d ≠ some errorCode := by
  obtain ⟨last, hlast, -⟩ := u8Steps_legal d (code := acceptCode) (by decide)
  simp [isValidUtf8Prefix_iff_u8Steps, hlast]

theorem isValidUtf8Prefix_of_append {a b : List Byte} (h : isValidUtf8Prefix (a ++ b) = true) :
    isValidUtf8Prefix a = true := by
  obtain ⟨e, he⟩ := isValidUtf8_append_of_isValidUtf8Prefix h
  rw [List.append_assoc] at he
  exact isValidUtf8Prefix_of_isValidUtf8_append he

theorem isValidUtf8Prefix_of_isValidUtf8 (h : isValidUtf8 d = true) : isValidUtf8Prefix d = true :=
  isValidUtf8Prefix_of_isValidUtf8_append (e := []) (by rwa [List.append_nil])

end Validators

/-- Settles O52: the short-circuit stops where the byte steps have reached error, which they never leave. -/
theorem strictValidatorIsFinalStateAccept : Obligations.StrictValidatorIsFinalStateAccept := by
  unfold Obligations.StrictValidatorIsFinalStateAccept
  exact fun d => Bool.eq_iff_iff.2 ((isValidUtf8_iff_u8Steps d).trans decide_eq_true_iff.symm)

/-- Settles O53: a leniently valid sequence extends to a valid one, and so does each of its beginnings. -/
theorem lenientValidatorIsStateNotError : Obligations.LenientValidatorIsStateNotError := by
  unfold Obligations.LenientValidatorIsStateNotError
  exact ⟨fun d => Bool.eq_iff_iff.2 ((isValidUtf8Prefix_iff_u8Steps_ne_error d).trans decide_eq_true_iff.symm),
    fun _ _ => isValidUtf8Prefix_of_append, fun _ => isValidUtf8Prefix_of_isValidUtf8⟩

end Sys2Proof.Machine

/-! Which byte sequences the validators accept: the canonical encodings of scalar values and nothing else (41_utf8_dfa.md
R144, R157), and the source's three properties (R158). -/

namespace Sys2Proof.Machine

/-- The well-formed sequences of one scalar value, byte range by byte range: what `encodeScalar` gives
(`isUtf8Sequence_encodeScalar`, `exists_scalar_of_isUtf8Sequence`) and what leads the byte step from accept back to accept
(`u8Steps_isUtf8Sequence`, `beginsWithSequence`). -/
def IsUtf8Sequence : List Byte → Prop
  | [a] => a ≤ 0x7F#8
  | [a, b] => (0xC2#8 ≤ a ∧ a ≤ 0xDF#8) ∧ 0x80#8 ≤ b ∧ b ≤ 0xBF#8
  | [a, b, c] => (0xE0#8 ≤ a ∧ a ≤ 0xEF#8) ∧ (0x80#8 ≤ b ∧ b ≤ 0xBF#8) ∧ (0x80#8 ≤ c ∧ c ≤ 0xBF#8) ∧
      (a = 0xE0#8 → 0xA0#8 ≤ b) ∧ (a = 0xED#8 → b ≤ 0x9F#8)
  | [a, b, c, d] => (0xF0#8 ≤ a ∧ a ≤ 0xF4#8) ∧ (0x80#8 ≤ b ∧ b ≤ 0xBF#8) ∧ (0x80#8 ≤ c ∧ c ≤ 0xBF#8) ∧
      (0x80#8 ≤ d ∧ d ≤ 0xBF#8) ∧ (a = 0xF0#8 → 0x90#8 ≤ b) ∧ (a = 0xF4#8 → b ≤ 0x8F#8)
  | _ => False

section Encoder

variable {v : BitVec 21}

/-- A tag whose low bits are 0 is added to a field narrow enough to fit them. -/
theorem toNat_tag_or {k a : Nat} {tag : Byte} (x : BitVec k) (hk : k ≤ 8) (htag : tag.toNat = 2 ^ k * a) :
    (tag ||| x.setWidth 8).toNat = tag.toNat + x.toNat := by
  rw [BitVec.toNat_or, BitVec.toNat_setWidth_of_le hk, htag, Nat.two_pow_add_eq_or_of_lt x.isLt]

@[simp] theorem toNat_continuationByte (v : BitVec 21) (lo : Nat) :
    (continuationByte v lo).toNat = 0x80 + v.toNat / 2 ^ lo % 64 := by
  rw [continuationByte, toNat_tag_or (a := 2) _ (by decide) rfl, BitVec.extractLsb'_toNat, Nat.shiftRight_eq_div_pow]
  rfl

@[simp] theorem toNat_leadOfTwo (v : BitVec 21) :
    (0xC0#8 ||| (v.extractLsb' 6 5).setWidth 8).toNat = 0xC0 + v.toNat / 64 % 32 := by
  rw [toNat_tag_or (a := 6) _ (by decide) rfl, BitVec.extractLsb'_toNat, Nat.shiftRight_eq_div_pow]
  rfl

@[simp] theorem toNat_leadOfThree (v : BitVec 21) :
    (0xE0#8 ||| (v.extractLsb' 12 4).setWidth 8).toNat = 0xE0 + v.toNat / 4096 % 16 := by
  rw [toNat_tag_or (a := 14) _ (by decide) rfl, BitVec.extractLsb'_toNat, Nat.shiftRight_eq_div_pow]
  rfl

@[simp] theorem toNat_leadOfFour (v : BitVec 21) :
    (0xF0#8 ||| (v.extractLsb' 18 3).setWidth 8).toNat = 0xF0 + v.toNat / 262144 % 8 := by
  rw [toNat_tag_or (a := 30) _ (by decide) rfl, BitVec.extractLsb'_toNat, Nat.shiftRight_eq_div_pow]
  rfl

theorem isUtf8Sequence_encodeScalar (hv : isScalar v = true) : IsUtf8Sequence (encodeScalar v) := by
  have hscalar := of_decide_eq_true hv
  unfold encodeScalar
  split_ifs
  all_goals
    simp only [IsUtf8Sequence, BitVec.le_def, BitVec.toNat_eq, toNat_continuationByte, toNat_leadOfTwo,
      toNat_leadOfThree, toNat_leadOfFour, BitVec.extractLsb'_toNat, Nat.shiftRight_zero, BitVec.toNat_ofNat]
    omega

/-- The scalar of a sequence is the number its payload bits spell. -/
theorem exists_scalar_of_isUtf8Sequence {e : List Byte} (h : IsUtf8Sequence e) :
    ∃ v, isScalar v = true ∧ encodeScalar v = e := by
  match e, h with
  | [a], h =>
    simp only [IsUtf8Sequence, BitVec.le_def, BitVec.toNat_ofNat] at h
    obtain ⟨v, hv⟩ : ∃ v : BitVec 21, v.toNat = a.toNat := ⟨.ofNatLT a.toNat (by omega), rfl⟩
    refine ⟨v, decide_eq_true (by omega), ?_⟩
    rw [encodeScalar, if_pos (by omega)]
    simp only [List.cons.injEq, BitVec.toNat_eq, BitVec.extractLsb'_toNat, Nat.shiftRight_zero, and_true]
    omega
  | [a, b], h =>
    simp only [IsUtf8Sequence, BitVec.le_def, BitVec.toNat_ofNat] at h
    obtain ⟨v, hv⟩ : ∃ v : BitVec 21, v.toNat = (a.toNat - 0xC0) * 64 + (b.toNat - 0x80) :=
      ⟨.ofNatLT _ (by omega), rfl⟩
    refine ⟨v, decide_eq_true (by omega), ?_⟩
    rw [encodeScalar, if_neg (by omega), if_pos (by omega)]
    simp only [List.cons.injEq, BitVec.toNat_eq, toNat_continuationByte, toNat_leadOfTwo, and_true]
    omega
  | [a, b, c], h =>
    simp only [IsUtf8Sequence, BitVec.le_def, BitVec.toNat_eq, BitVec.toNat_ofNat] at h
    obtain ⟨v, hv⟩ : ∃ v : BitVec 21,
        v.toNat = (a.toNat - 0xE0) * 4096 + (b.toNat - 0x80) * 64 + (c.toNat - 0x80) :=
      ⟨.ofNatLT _ (by omega), rfl⟩
    refine ⟨v, decide_eq_true (by omega), ?_⟩
    rw [encodeScalar, if_neg (by omega), if_neg (by omega), if_pos (by omega)]
    simp only [List.cons.injEq, BitVec.toNat_eq, toNat_continuationByte, toNat_leadOfThree, and_true]
    omega
  | [a, b, c, d], h =>
    simp only [IsUtf8Sequence, BitVec.le_def, BitVec.toNat_eq, BitVec.toNat_ofNat] at h
    obtain ⟨v, hv⟩ : ∃ v : BitVec 21,
        v.toNat = (a.toNat - 0xF0) * 262144 + (b.toNat - 0x80) * 4096 + (c.toNat - 0x80) * 64 + (d.toNat - 0x80) :=
      ⟨.ofNatLT _ (by omega), rfl⟩
    refine ⟨v, decide_eq_true (by omega), ?_⟩
    rw [encodeScalar, if_neg (by omega), if_neg (by omega), if_neg (by omega)]
    simp only [List.cons.injEq, BitVec.toNat_eq, toNat_continuationByte, toNat_leadOfFour, and_true]
    omega

end Encoder

/-- A range of bytes that lead on from a state code, and the code they lead to. -/
structure ByteRange where
  /-- the code the bytes are read in -/
  code : Byte
  /-- the first byte of the range -/
  first : Byte
  /-- the last byte of the range -/
  last : Byte
  /-- the code they lead to -/
  next : Byte

/-- The bytes that lead on from accept (`u8Step_lead`), and no others do (`u8Step_accept_cases`). -/
def leadRanges : List ByteRange :=
  [ ⟨0#8, 0x00#8, 0x7F#8, 0#8⟩, ⟨0#8, 0xC2#8, 0xDF#8, 11#8⟩, ⟨0#8, 0xE0#8, 0xE0#8, 22#8⟩,
    ⟨0#8, 0xE1#8, 0xEC#8, 33#8⟩, ⟨0#8, 0xED#8, 0xED#8, 44#8⟩, ⟨0#8, 0xEE#8, 0xEF#8, 33#8⟩,
    ⟨0#8, 0xF0#8, 0xF0#8, 55#8⟩, ⟨0#8, 0xF1#8, 0xF3#8, 66#8⟩, ⟨0#8, 0xF4#8, 0xF4#8, 77#8⟩ ]

/-- The bytes that lead on from the pending codes, and no others do (`u8Step_tail`). -/
def tailRanges : List ByteRange :=
  [ ⟨11#8, 0x80#8, 0xBF#8, 0#8⟩, ⟨22#8, 0xA0#8, 0xBF#8, 11#8⟩, ⟨33#8, 0x80#8, 0xBF#8, 11#8⟩,
    ⟨44#8, 0x80#8, 0x9F#8, 11#8⟩, ⟨55#8, 0x90#8, 0xBF#8, 33#8⟩, ⟨66#8, 0x80#8, 0xBF#8, 33#8⟩,
    ⟨77#8, 0x80#8, 0x8F#8, 33#8⟩ ]

section Traversal

variable {r : ByteRange} {code low high first last next a b c e : Byte} {d : List Byte}

/-- Every byte from accept: a lead or ASCII byte by its range, and error for all others (41_utf8_dfa.md R144). -/
theorem u8Step_accept_cases (a : Byte) :
    u8Step acceptCode a = some errorCode ∨
      ∃ r ∈ leadRanges, r.first ≤ a ∧ a ≤ r.last ∧ u8Step acceptCode a = some r.next := by
  revert a
  decide +kernel

theorem u8Step_lead (h : r ∈ leadRanges) (hfirst : r.first ≤ a) (hlast : a ≤ r.last) :
    u8Step acceptCode a = some r.next := by
  have all : ∀ r ∈ leadRanges, ∀ k : Fin 256, r.first ≤ .ofFin k → .ofFin k ≤ r.last →
      u8Step acceptCode (.ofFin k) = some r.next := by decide +kernel
  exact all r h a.toFin hfirst hlast

/-- From a pending code the bytes of its range lead on, and all others to error (41_utf8_dfa.md R144). -/
theorem u8Step_tail (h : r ∈ tailRanges) (b : Byte) :
    u8Step r.code b = some (if r.first ≤ b ∧ b ≤ r.last then r.next else errorCode) := by
  have all : ∀ r ∈ tailRanges, ∀ k : Fin 256,
      u8Step r.code (.ofFin k) = some (if r.first ≤ .ofFin k ∧ .ofFin k ≤ r.last then r.next else errorCode) := by
    decide +kernel
  exact all r h b.toFin

theorem tail_1_mem_tailRanges : ⟨11#8, 0x80#8, 0xBF#8, 0#8⟩ ∈ tailRanges := by simp [tailRanges]

theorem tail_2b_mem_tailRanges : ⟨33#8, 0x80#8, 0xBF#8, 11#8⟩ ∈ tailRanges := by simp [tailRanges]

theorem u8Steps_cons (h : u8Step code b = some next) : u8Steps code (b :: d) = u8Steps next d := by
  rw [u8Steps, h]

theorem u8Steps_lead (h : r ∈ leadRanges) (hfirst : r.first ≤ a) (hlast : a ≤ r.last) :
    u8Steps acceptCode (a :: d) = u8Steps r.next d :=
  u8Steps_cons (u8Step_lead h hfirst hlast)

/-- A sequence leads a pending code to accept where its first byte is in the code's range and the others lead on. -/
theorem u8Steps_tail_iff (h : r ∈ tailRanges) : u8Steps r.code d = some acceptCode ↔
    ∃ b rest, d = b :: rest ∧ (r.first ≤ b ∧ b ≤ r.last) ∧ u8Steps r.next rest = some acceptCode := by
  cases d with
  | nil =>
    have hpending : ∀ r ∈ tailRanges, r.code ≠ acceptCode := by decide
    simp [u8Steps, hpending r h]
  | cons b rest =>
    rw [u8Steps_cons (u8Step_tail h b)]
    split_ifs with hin
    · simp [hin]
    · simp [hin, u8Steps_error, errorCode_ne_acceptCode]

/-- Two bytes to come: one of the code's range, then any continuation byte. -/
theorem u8Steps_two_tails_iff (h : ⟨code, first, last, 11#8⟩ ∈ tailRanges) : u8Steps code d = some acceptCode ↔
    ∃ b c rest, d = b :: c :: rest ∧ (first ≤ b ∧ b ≤ last) ∧ (0x80#8 ≤ c ∧ c ≤ 0xBF#8) ∧
      u8Steps acceptCode rest = some acceptCode := by
  rw [u8Steps_tail_iff h]
  constructor
  · rintro ⟨b, _, rfl, hb, hd⟩
    obtain ⟨c, rest, rfl, hc, hrest⟩ := (u8Steps_tail_iff tail_1_mem_tailRanges).1 hd
    exact ⟨b, c, rest, rfl, hb, hc, hrest⟩
  · rintro ⟨b, c, rest, rfl, hb, hc, hrest⟩
    exact ⟨b, _, rfl, hb, (u8Steps_tail_iff tail_1_mem_tailRanges).2 ⟨c, rest, rfl, hc, hrest⟩⟩

/-- Three bytes to come: one of the code's range, then any two continuation bytes. -/
theorem u8Steps_three_tails_iff (h : ⟨code, first, last, 33#8⟩ ∈ tailRanges) : u8Steps code d = some acceptCode ↔
    ∃ b c e rest, d = b :: c :: e :: rest ∧ (first ≤ b ∧ b ≤ last) ∧ (0x80#8 ≤ c ∧ c ≤ 0xBF#8) ∧
      (0x80#8 ≤ e ∧ e ≤ 0xBF#8) ∧ u8Steps acceptCode rest = some acceptCode := by
  rw [u8Steps_tail_iff h]
  constructor
  · rintro ⟨b, _, rfl, hb, hd⟩
    obtain ⟨c, e, rest, rfl, hc, he, hrest⟩ := (u8Steps_two_tails_iff tail_2b_mem_tailRanges).1 hd
    exact ⟨b, c, e, rest, rfl, hb, hc, he, hrest⟩
  · rintro ⟨b, c, e, rest, rfl, hb, hc, he, hrest⟩
    exact ⟨b, _, rfl, hb, (u8Steps_two_tails_iff tail_2b_mem_tailRanges).2 ⟨c, e, rest, rfl, hc, he, hrest⟩⟩

theorem u8Steps_threeBytes (hlead : ⟨0#8, low, high, code⟩ ∈ leadRanges)
    (htail : ⟨code, first, last, 11#8⟩ ∈ tailRanges) (ha : low ≤ a ∧ a ≤ high) (hb : first ≤ b ∧ b ≤ last)
    (hc : 0x80#8 ≤ c ∧ c ≤ 0xBF#8) : u8Steps acceptCode [a, b, c] = some acceptCode :=
  (u8Steps_lead hlead ha.1 ha.2).trans ((u8Steps_two_tails_iff htail).2 ⟨b, c, [], rfl, hb, hc, rfl⟩)

theorem u8Steps_fourBytes (hlead : ⟨0#8, low, high, code⟩ ∈ leadRanges)
    (htail : ⟨code, first, last, 33#8⟩ ∈ tailRanges) (ha : low ≤ a ∧ a ≤ high) (hb : first ≤ b ∧ b ≤ last)
    (hc : 0x80#8 ≤ c ∧ c ≤ 0xBF#8) (he : 0x80#8 ≤ e ∧ e ≤ 0xBF#8) :
    u8Steps acceptCode [a, b, c, e] = some acceptCode :=
  (u8Steps_lead hlead ha.1 ha.2).trans ((u8Steps_three_tails_iff htail).2 ⟨b, c, e, [], rfl, hb, hc, he, rfl⟩)

end Traversal

section Sequences

variable {s d : List Byte}

/-- A well-formed sequence leads from accept back to accept, by its lead's row of `leadRanges`. -/
theorem u8Steps_isUtf8Sequence (h : IsUtf8Sequence s) : u8Steps acceptCode s = some acceptCode := by
  match s, h with
  | [a], ha => exact u8Steps_lead (r := ⟨0#8, 0x00#8, 0x7F#8, 0#8⟩) (by simp [leadRanges]) (by bv_omega) ha
  | [a, b], ⟨ha, hb⟩ =>
    exact (u8Steps_lead (r := ⟨0#8, 0xC2#8, 0xDF#8, 11#8⟩) (by simp [leadRanges]) ha.1 ha.2).trans
      ((u8Steps_tail_iff tail_1_mem_tailRanges).2 ⟨b, [], rfl, hb, rfl⟩)
  | [a, b, c], ⟨ha, hb, hc, hoverlong, hsurrogate⟩ =>
    obtain h | h | h | h : (0xE0#8 ≤ a ∧ a ≤ 0xE0#8) ∨ (0xE1#8 ≤ a ∧ a ≤ 0xEC#8) ∨ (0xED#8 ≤ a ∧ a ≤ 0xED#8) ∨
        (0xEE#8 ≤ a ∧ a ≤ 0xEF#8) := by bv_omega
    · exact u8Steps_threeBytes (code := 22#8) (first := 0xA0#8) (last := 0xBF#8) (by simp [leadRanges])
        (by simp [tailRanges]) h (by bv_omega) hc
    · exact u8Steps_threeBytes (by simp [leadRanges]) tail_2b_mem_tailRanges h hb hc
    · exact u8Steps_threeBytes (code := 44#8) (first := 0x80#8) (last := 0x9F#8) (by simp [leadRanges])
        (by simp [tailRanges]) h (by bv_omega) hc
    · exact u8Steps_threeBytes (by simp [leadRanges]) tail_2b_mem_tailRanges h hb hc
  | [a, b, c, e], ⟨ha, hb, hc, he, hoverlong, hrange⟩ =>
    obtain h | h | h : (0xF0#8 ≤ a ∧ a ≤ 0xF0#8) ∨ (0xF1#8 ≤ a ∧ a ≤ 0xF3#8) ∨ (0xF4#8 ≤ a ∧ a ≤ 0xF4#8) := by
      bv_omega
    · exact u8Steps_fourBytes (code := 55#8) (first := 0x90#8) (last := 0xBF#8) (by simp [leadRanges])
        (by simp [tailRanges]) h (by bv_omega) hc he
    · exact u8Steps_fourBytes (code := 66#8) (by simp [leadRanges]) (by simp [tailRanges]) h hb hc he
    · exact u8Steps_fourBytes (code := 77#8) (first := 0x80#8) (last := 0x8F#8) (by simp [leadRanges])
        (by simp [tailRanges]) h (by bv_omega) hc he

/-- Some well-formed sequence begins `d`, and the rest leads from accept to accept. -/
def BeginsWithSequence (d : List Byte) : Prop :=
  ∃ s rest, d = s ++ rest ∧ IsUtf8Sequence s ∧ u8Steps acceptCode rest = some acceptCode

variable {code first last a : Byte}

theorem beginsWithSequence_threeBytes (htail : ⟨code, first, last, 11#8⟩ ∈ tailRanges)
    (h : u8Steps code d = some acceptCode)
    (hseq : ∀ b c, first ≤ b ∧ b ≤ last → 0x80#8 ≤ c ∧ c ≤ 0xBF#8 → IsUtf8Sequence [a, b, c]) :
    BeginsWithSequence (a :: d) := by
  obtain ⟨b, c, rest, rfl, hb, hc, hrest⟩ := (u8Steps_two_tails_iff htail).1 h
  exact ⟨[a, b, c], rest, rfl, hseq b c hb hc, hrest⟩

theorem beginsWithSequence_fourBytes (htail : ⟨code, first, last, 33#8⟩ ∈ tailRanges)
    (h : u8Steps code d = some acceptCode)
    (hseq : ∀ b c e, first ≤ b ∧ b ≤ last → 0x80#8 ≤ c ∧ c ≤ 0xBF#8 → 0x80#8 ≤ e ∧ e ≤ 0xBF#8 →
      IsUtf8Sequence [a, b, c, e]) :
    BeginsWithSequence (a :: d) := by
  obtain ⟨b, c, e, rest, rfl, hb, hc, he, hrest⟩ := (u8Steps_three_tails_iff htail).1 h
  exact ⟨[a, b, c, e], rest, rfl, hseq b c e hb hc he, hrest⟩

/-- A sequence that leads from accept to accept begins with a well-formed one, by the row of its lead. -/
theorem beginsWithSequence (h : u8Steps acceptCode (a :: d) = some acceptCode) : BeginsWithSequence (a :: d) := by
  obtain herror | ⟨r, hr, hfirst, hlast, hstep⟩ := u8Step_accept_cases a
  · rw [u8Steps_cons herror, u8Steps_error] at h
    exact absurd (Option.some.inj h) errorCode_ne_acceptCode
  · rw [u8Steps_cons hstep] at h
    simp only [leadRanges, List.mem_cons, List.not_mem_nil, or_false] at hr
    obtain rfl | rfl | rfl | rfl | rfl | rfl | rfl | rfl | rfl := hr
    · exact ⟨[a], d, rfl, hlast, h⟩
    · obtain ⟨b, rest, rfl, hb, hrest⟩ := (u8Steps_tail_iff tail_1_mem_tailRanges).1 h
      exact ⟨[a, b], rest, rfl, ⟨⟨hfirst, hlast⟩, hb⟩, hrest⟩
    · refine beginsWithSequence_threeBytes (first := 0xA0#8) (last := 0xBF#8) (by simp [tailRanges]) h ?_
      intro b c hb hc
      exact ⟨by bv_omega, by bv_omega, hc, by bv_omega, by bv_omega⟩
    · refine beginsWithSequence_threeBytes tail_2b_mem_tailRanges h ?_
      intro b c hb hc
      exact ⟨by bv_omega, hb, hc, by bv_omega, by bv_omega⟩
    · refine beginsWithSequence_threeBytes (first := 0x80#8) (last := 0x9F#8) (by simp [tailRanges]) h ?_
      intro b c hb hc
      exact ⟨by bv_omega, by bv_omega, hc, by bv_omega, by bv_omega⟩
    · refine beginsWithSequence_threeBytes tail_2b_mem_tailRanges h ?_
      intro b c hb hc
      exact ⟨by bv_omega, hb, hc, by bv_omega, by bv_omega⟩
    · refine beginsWithSequence_fourBytes (first := 0x90#8) (last := 0xBF#8) (by simp [tailRanges]) h ?_
      intro b c e hb hc he
      exact ⟨by bv_omega, by bv_omega, hc, he, by bv_omega, by bv_omega⟩
    · refine beginsWithSequence_fourBytes (first := 0x80#8) (last := 0xBF#8) (by simp [tailRanges]) h ?_
      intro b c e hb hc he
      exact ⟨by bv_omega, hb, hc, he, by bv_omega, by bv_omega⟩
    · refine beginsWithSequence_fourBytes (first := 0x80#8) (last := 0x8F#8) (by simp [tailRanges]) h ?_
      intro b c e hb hc he
      exact ⟨by bv_omega, by bv_omega, hc, he, by bv_omega, by bv_omega⟩

/-- What follows the first byte of a well-formed sequence is continuation bytes. -/
theorem continuation_of_mem_tail {a b : Byte} (h : IsUtf8Sequence (a :: d)) (hb : b ∈ d) :
    0x80#8 ≤ b ∧ b ≤ 0xBF#8 := by
  match d, h with
  | [b1], ⟨_, h1⟩ =>
    rw [List.mem_singleton] at hb
    exact hb ▸ h1
  | [b1, b2], ⟨_, h1, h2, _⟩ =>
    simp only [List.mem_cons, List.not_mem_nil, or_false] at hb
    obtain rfl | rfl := hb
    · exact h1
    · exact h2
  | [b1, b2, b3], ⟨_, h1, h2, h3, _⟩ =>
    simp only [List.mem_cons, List.not_mem_nil, or_false] at hb
    obtain rfl | rfl | rfl := hb
    · exact h1
    · exact h2
    · exact h3

/-- No proper beginning of a well-formed sequence is valid: what follows it begins with a continuation byte, which accept
does not allow. -/
theorem isValidUtf8_eq_false_of_isUtf8Sequence_append {a b : List Byte} (h : IsUtf8Sequence (a ++ b)) (ha : a ≠ [])
    (hb : b ≠ []) : isValidUtf8 a = false := by
  obtain ⟨x, a, rfl⟩ := List.exists_cons_of_ne_nil ha
  obtain ⟨y, b, rfl⟩ := List.exists_cons_of_ne_nil hb
  obtain ⟨hfirst, hlast⟩ := continuation_of_mem_tail h (b := y) (by simp)
  have haccept := u8Steps_isUtf8Sequence h
  rw [← Bool.not_eq_true, isValidUtf8_iff_u8Steps]
  intro hvalid
  rw [u8Steps_append, hvalid, Option.bind_some, u8Steps_cons (u8Step_continuation_accept hfirst hlast),
    u8Steps_error] at haccept
  exact errorCode_ne_acceptCode (Option.some.inj haccept)

theorem isValidUtf8_flatMap_encodeScalar {vs : List (BitVec 21)} (h : ∀ v ∈ vs, isScalar v = true) :
    isValidUtf8 (vs.flatMap encodeScalar) = true := by
  rw [isValidUtf8_iff_u8Steps]
  induction vs with
  | nil => rfl
  | cons v vs ih =>
    obtain ⟨hv, hvs⟩ := List.forall_mem_cons.1 h
    rw [List.flatMap_cons, u8Steps_append, u8Steps_isUtf8Sequence (isUtf8Sequence_encodeScalar hv), Option.bind_some]
    exact ih hvs

/-- A valid sequence is encodings one after another: the first well-formed sequence is one, and the rest is shorter. -/
theorem exists_scalars_of_u8Steps (d : List Byte) (h : u8Steps acceptCode d = some acceptCode) :
    ∃ vs : List (BitVec 21), (∀ v ∈ vs, isScalar v = true) ∧ d = vs.flatMap encodeScalar := by
  match d, h with
  | [], _ => exact ⟨[], by simp, rfl⟩
  | a :: d, h =>
    obtain ⟨s, rest, hd, hs, hrest⟩ := beginsWithSequence h
    obtain ⟨v, hv, rfl⟩ := exists_scalar_of_isUtf8Sequence hs
    have hshorter : rest.length < (a :: d).length := by
      have hne : encodeScalar v ≠ [] := fun hnil => by rw [hnil] at hs; exact hs
      rw [hd, List.length_append]
      exact Nat.lt_add_of_pos_left (List.length_pos_of_ne_nil hne)
    obtain ⟨vs, hvs, rfl⟩ := exists_scalars_of_u8Steps rest hrest
    exact ⟨v :: vs, List.forall_mem_cons.2 ⟨hv, hvs⟩, by rw [hd, List.flatMap_cons]⟩
termination_by d.length
decreasing_by exact hshorter

end Sequences

/-- Settles O55: the byte step leads from accept to accept by well-formed sequences only, and these are the encodings. -/
theorem validatorAcceptsExactlyTheEncodings : Obligations.ValidatorAcceptsExactlyTheEncodings := by
  unfold Obligations.ValidatorAcceptsExactlyTheEncodings
  intro d
  constructor
  · exact fun h => exists_scalars_of_u8Steps d ((isValidUtf8_iff_u8Steps d).1 h)
  · rintro ⟨vs, hvs, rfl⟩
    exact isValidUtf8_flatMap_encodeScalar hvs

section SourceProperties

variable {d : List Byte} {b : Byte}

theorem isValidUtf8_of_ascii (h : ∀ b ∈ d, b < 0x80#8) : isValidUtf8 d = true := by
  rw [isValidUtf8_iff_u8Steps]
  induction d with
  | nil => rfl
  | cons b d ih =>
    obtain ⟨hb, hd⟩ := List.forall_mem_cons.1 h
    rw [u8Steps_cons (u8Step_ascii_accept hb), ih hd]

theorem isValidUtf8_encodeScalar {v : BitVec 21} (hv : isScalar v = true) : isValidUtf8 (encodeScalar v) = true :=
  (isValidUtf8_iff_u8Steps _).2 (u8Steps_isUtf8Sequence (isUtf8Sequence_encodeScalar hv))

/-- A byte that is an error from every legal code makes the whole sequence an error. -/
theorem u8Steps_error_of_mem (hb : ∀ code, legalStateCode code = true → u8Step code b = some errorCode) (h : b ∈ d) :
    u8Steps acceptCode d = some errorCode := by
  obtain ⟨before, after, rfl⟩ := List.append_of_mem h
  obtain ⟨code, hcode, hlegal⟩ := u8Steps_legal before (code := acceptCode) (by decide)
  rw [u8Steps_append, hcode, Option.bind_some, u8Steps_cons (hb code hlegal), u8Steps_error]

end SourceProperties

/-- Settles O54: ASCII stays in accept, a proper beginning of an encoding is neither at its end nor at an error, and the
overlong leads and surrogates lead to error. -/
theorem sourceUtf8Properties : Obligations.SourceUtf8Properties := by
  unfold Obligations.SourceUtf8Properties
  refine ⟨fun d => isValidUtf8_of_ascii, fun v a b hv hab ha hb => ?_, fun d b hb hmem => ?_, fun d b hf hl => ?_⟩
  · have hvalid := isValidUtf8_encodeScalar hv
    have hseq := isUtf8Sequence_encodeScalar hv
    rw [hab] at hvalid hseq
    exact ⟨isValidUtf8_eq_false_of_isUtf8Sequence_append hseq ha hb, isValidUtf8Prefix_of_isValidUtf8_append hvalid⟩
  · refine rejected_of_u8Steps_error (u8Steps_error_of_mem (fun code hc => u8Step_neverLegal hc ?_) hmem)
    exact hb.imp_right Or.inl
  · apply rejected_of_u8Steps_error
    have hsplit : u8Steps acceptCode ([0xED#8, b] ++ d) = some errorCode := by
      rw [u8Steps_append, u8Steps_surrogate hf hl, Option.bind_some, u8Steps_error]
    exact hsplit

end Sys2Proof.Machine

/-! The correctness oracle's two counts, by how many bytes lead from each code to each code (41_utf8_dfa.md R157). -/

namespace Sys2Proof.Machine

/-- Where the 256 bytes lead from one code. -/
structure Branching where
  /-- the code the bytes are read in -/
  code : Byte
  /-- each code they lead to, with how many bytes lead there -/
  branches : List (Byte × Nat)

/-- Where the bytes lead from accept (`sum_allBytes`): 77 of the 256 to error. -/
def acceptBranching : Branching :=
  ⟨0#8, [(0#8, 128), (11#8, 30), (22#8, 1), (33#8, 14), (44#8, 1), (55#8, 1), (66#8, 3), (77#8, 1), (88#8, 77)]⟩

/-- Where the bytes lead from each code that has a stored row (`sum_allBytes`). -/
def branchings : List Branching :=
  [ acceptBranching, ⟨11#8, [(0#8, 64), (88#8, 192)]⟩, ⟨22#8, [(11#8, 32), (88#8, 224)]⟩,
    ⟨33#8, [(11#8, 64), (88#8, 192)]⟩, ⟨44#8, [(11#8, 32), (88#8, 224)]⟩, ⟨55#8, [(33#8, 48), (88#8, 208)]⟩,
    ⟨66#8, [(33#8, 64), (88#8, 192)]⟩, ⟨77#8, [(33#8, 16), (88#8, 240)]⟩ ]

section OracleCounts

variable {r : Branching}

/-- The steps by all bytes are, in another order, as many to each code as the branching says. -/
theorem allBytes_map_u8Step_perm (h : r ∈ branchings) :
    (allBytes.map (u8Step r.code)).Perm (r.branches.flatMap (fun p => List.replicate p.2 (some p.1))) := by
  have all : ∀ r ∈ branchings,
      (allBytes.map (u8Step r.code)).isPerm (r.branches.flatMap (fun p => List.replicate p.2 (some p.1))) = true := by
    decide +kernel
  exact List.isPerm_iff.1 (all r h)

/-- A sum over the bytes is a sum over the codes they lead to. -/
theorem sum_allBytes (h : r ∈ branchings) (f : Option Byte → Nat) :
    (allBytes.map (fun b => f (u8Step r.code b))).sum = (r.branches.map (fun p => p.2 * f (some p.1))).sum := by
  calc (allBytes.map (fun b => f (u8Step r.code b))).sum
      = ((allBytes.map (u8Step r.code)).map f).sum := by rw [List.map_map]; rfl
    _ = ((r.branches.flatMap (fun p => List.replicate p.2 (some p.1))).map f).sum :=
        ((allBytes_map_u8Step_perm h).map f).sum_eq
    _ = _ := by
      induction r.branches with
      | nil => rfl
      | cons p branches ih => simp [ih]

/-- One node of the oracle's trie: complete encodings end at accept, and go on below every pending code. -/
theorem completeEncodings_succ (h : r ∈ branchings) (n : Nat) :
    completeEncodings (n + 1) r.code = (r.branches.map (fun p =>
      p.2 * (if p.1 = acceptCode then 1 else if p.1 = errorCode then 0 else completeEncodings n p.1))).sum :=
  sum_allBytes h (fun next => match next with
    | some next => if next = acceptCode then 1 else if next = errorCode then 0 else completeEncodings n next
    | none => 0)

theorem rejectedExtensions_succ (h : r ∈ branchings) (n : Nat) :
    rejectedExtensions (n + 1) r.code = (r.branches.map (fun p =>
      p.2 * (if p.1 = errorCode then 1 else if p.1 = acceptCode then 0 else rejectedExtensions n p.1))).sum :=
  sum_allBytes h (fun next => match next with
    | some next => if next = errorCode then 1 else if next = acceptCode then 0 else rejectedExtensions n next
    | none => 0)

/-- One byte to come: 64 continuation bytes complete the encoding. -/
theorem counts_oneTail (n : Nat) : completeEncodings (n + 1) 11#8 = 64 ∧ rejectedExtensions (n + 1) 11#8 = 192 := by
  have hrow : ⟨11#8, [(0#8, 64), (88#8, 192)]⟩ ∈ branchings := by simp [branchings]
  rw [completeEncodings_succ hrow, rejectedExtensions_succ hrow]
  simp [acceptCode, errorCode]

/-- Two bytes to come: below each of the `k` bytes that lead on is a node with one byte to come. -/
theorem counts_twoTails {code : Byte} {k m : Nat} (hrow : ⟨code, [(11#8, k), (88#8, m)]⟩ ∈ branchings) (n : Nat) :
    completeEncodings (n + 2) code = k * 64 ∧ rejectedExtensions (n + 2) code = k * 192 + m := by
  obtain ⟨hcomplete, hrejected⟩ := counts_oneTail n
  rw [completeEncodings_succ hrow, rejectedExtensions_succ hrow]
  simp [acceptCode, errorCode, hcomplete, hrejected]

/-- Three bytes to come: below each of the `k` bytes that lead on is a node with any two continuation bytes to come. -/
theorem counts_threeTails {code : Byte} {k m : Nat} (hrow : ⟨code, [(33#8, k), (88#8, m)]⟩ ∈ branchings) (n : Nat) :
    completeEncodings (n + 3) code = k * 4096 ∧ rejectedExtensions (n + 3) code = k * 12480 + m := by
  obtain ⟨hcomplete, hrejected⟩ := counts_twoTails (code := 33#8) (k := 64) (m := 192) (by simp [branchings]) n
  rw [completeEncodings_succ hrow, rejectedExtensions_succ hrow]
  simp [acceptCode, errorCode, hcomplete, hrejected]

theorem acceptBranching_mem_branchings : acceptBranching ∈ branchings := List.mem_cons_self

/-- Before any byte: no encoding is longer than four bytes, so a greater depth counts the same. -/
theorem counts_accept (n : Nat) :
    completeEncodings (n + 4) 0#8 = 1112064 ∧ rejectedExtensions (n + 4) 0#8 = 3389197 := by
  obtain ⟨hc11, hr11⟩ := counts_oneTail (n + 2)
  obtain ⟨hc22, hr22⟩ := counts_twoTails (code := 22#8) (k := 32) (m := 224) (by simp [branchings]) (n + 1)
  obtain ⟨hc33, hr33⟩ := counts_twoTails (code := 33#8) (k := 64) (m := 192) (by simp [branchings]) (n + 1)
  obtain ⟨hc44, hr44⟩ := counts_twoTails (code := 44#8) (k := 32) (m := 224) (by simp [branchings]) (n + 1)
  obtain ⟨hc55, hr55⟩ := counts_threeTails (code := 55#8) (k := 48) (m := 208) (by simp [branchings]) n
  obtain ⟨hc66, hr66⟩ := counts_threeTails (code := 66#8) (k := 64) (m := 192) (by simp [branchings]) n
  obtain ⟨hc77, hr77⟩ := counts_threeTails (code := 77#8) (k := 16) (m := 240) (by simp [branchings]) n
  constructor
  · refine (completeEncodings_succ acceptBranching_mem_branchings (n + 3)).trans ?_
    simp [acceptBranching, acceptCode, errorCode, hc11, hc22, hc33, hc44, hc55, hc66, hc77]
  · refine (rejectedExtensions_succ acceptBranching_mem_branchings (n + 3)).trans ?_
    simp [acceptBranching, acceptCode, errorCode, hr11, hr22, hr33, hr44, hr55, hr66, hr77]

/-- Before any byte only the bytes that accept does not allow are counted. -/
theorem rejectedExtensions_one_accept : rejectedExtensions 1 0#8 = 77 := by
  refine (rejectedExtensions_succ acceptBranching_mem_branchings 0).trans ?_
  simp [acceptBranching, acceptCode, errorCode, rejectedExtensions]

end OracleCounts

/-- Settles O56: counted over the branchings of the codes, from one byte to come up to four. -/
theorem oracleCounts : Obligations.OracleCounts := by
  unfold Obligations.OracleCounts
  refine ⟨(counts_accept 0).1, (counts_accept 0).2, rejectedExtensions_one_accept, fun n hn => ?_⟩
  obtain ⟨m, rfl⟩ := Nat.exists_eq_add_of_le' hn
  exact counts_accept m

end Sys2Proof.Machine

/-! The commands of the UTF-8 engine: the status word, what each command answers and how each command word with its opcode
is decoded (41_utf8_dfa.md R150-R156), and streams of them (R160). -/

namespace Sys2Proof.Machine

section StatusWord

theorem statusWord_validBit (code : Byte) : (statusWord code).getLsbD 0 = validFlag code := by
  cases h : validFlag code <;> cases h' : prefixOkFlag code <;> simp [statusWord, h, h']

theorem statusWord_prefixOkBit (code : Byte) : (statusWord code).getLsbD 1 = prefixOkFlag code := by
  cases h : validFlag code <;> cases h' : prefixOkFlag code <;> simp [statusWord, h, h']

/-- Above the two flags the status word is the code, shifted to its field (41_utf8_dfa.md R150). -/
theorem statusWord_getLsbD_of_two_le (code : Byte) {k : Nat} (hk : 2 ≤ k) :
    (statusWord code).getLsbD k = (zext32 code <<< 8).getLsbD k := by
  have hpow : 2 < 2 ^ k := Nat.lt_of_lt_of_le (by decide) (Nat.pow_le_pow_right Nat.two_pos hk)
  have hprefixOk : (2#32).getLsbD k = false := by simp [BitVec.getLsbD_ofNat, Nat.testBit_lt_two_pow hpow]
  have hvalid : k ≠ 0 := by omega
  cases h : prefixOkFlag code <;> cases h' : validFlag code <;> simp [statusWord, h, h', hprefixOk, hvalid]

/-- The fields that hold neither a flag nor STATE are 0 (41_utf8_dfa.md R150). -/
theorem statusWord_reserved (code : Byte) :
    (statusWord code).extractLsb' 2 6 = 0#6 ∧ (statusWord code).extractLsb' 16 16 = 0#16 := by
  constructor <;> apply BitVec.eq_of_getLsbD_eq <;> intro k hk
  · have hlow : 2 + k < 8 := by omega
    simp [statusWord_getLsbD_of_two_le code (Nat.le_add_right 2 k), hlow]
  · rw [BitVec.getLsbD_extractLsb', statusWord_getLsbD_of_two_le code (by omega), BitVec.getLsbD_shiftLeft, zext32,
      BitVec.getLsbD_setWidth, BitVec.getLsbD_of_ge code _ (by omega)]
    simp

theorem statusWord_pending {code : Byte} (ha : code ≠ acceptCode) (he : code ≠ errorCode) :
    statusWord code = (zext32 code <<< 8) ||| 2#32 := by
  simp [statusWord, validFlag, prefixOkFlag, ha, he]

end StatusWord

/-- Settles O50: each field is read off the three disjuncts of the word. -/
theorem statusWordFields : Obligations.StatusWordFields := by
  unfold Obligations.StatusWordFields
  refine ⟨fun code => ?_, rfl, rfl, fun code => statusWord_pending⟩
  obtain ⟨hlow, hhigh⟩ := statusWord_reserved code
  exact ⟨statusWord_validBit code, statusWord_prefixOkBit code, hlow, statusWord_stateField code, hhigh⟩

section Commands

variable {s t : State} {op byte : Byte} {arg : Word} {row : OpcodeRow} {rest : List HostAction} {i : Instr}

/-- A word of an assigned opcode: the reserved bits are checked before the operand's range (60_exceptions.md R202). -/
theorem step_commandWord_ranged (hs : s.phase = .ready) (hhost : s.host = .command (commandWord op arg) :: rest)
    (hrow : rowOf op = some row) :
    step s =
      if arg &&& reservedMask row.format ≠ 0#32 then .next (s.afterCommand rest s.crcState s.u8State ⟨false, 2#32⟩)
      else if row.legal arg = true then exec (row.build arg) { s with host := rest }
      else .next (s.afterCommand rest s.crcState s.u8State ⟨false, 3#32⟩) := by
  have hdecode : decode (commandWord op arg) =
      if arg &&& reservedMask row.format ≠ 0#32 then .error .illegalReserved
      else if row.legal arg = true then .ok (row.build arg) else .error .illegalRange := by
    simp only [decode, opcodeField_commandWord, argField_commandWord, hrow, ne_eq, ite_not]
  split_ifs at hdecode ⊢
  · exact (step_illegal hhost hdecode).trans (raiseIllegal_ready hs)
  · exact step_legal hhost hdecode
  · exact (step_illegal hhost hdecode).trans (raiseIllegal_ready hs)

/-- Format FMT_I reserves the bits above the index operand (30_encoding.md R62). -/
theorem reservedMask_fmtI_clear_iff (arg : Word) :
    arg &&& reservedMask .fmtI = 0#32 ↔ arg.extractLsb' 7 25 = 0#25 :=
  and_highMask_eq_zero_iff arg 7

theorem exec_u8Clear_ready (hs : s.phase = .ready) :
    exec .u8Clear s = .next ((s.writeU8 acceptCode).respond true (statusWord acceptCode)) :=
  ueUpdate_ready (h := fun _ => some acceptCode) hs rfl

/-- U8_FEED8 steps the register by its byte (41_utf8_dfa.md R153). -/
theorem exec_u8Feed8_ready {next : Byte} (hs : s.phase = .ready) (hstep : u8Step s.u8State byte = some next) :
    exec (.u8Feed8 byte) s = .next ((s.writeU8 next).respond true (statusWord next)) :=
  ueUpdate_ready (h := fun code => u8Step code byte) hs hstep

/-- A command that starts no stream steps `U8_STATE` by the bytes it feeds (41_utf8_dfa.md R160). -/
theorem exec_u8State (hi : startsU8Stream i = false) (h : exec i s = .next t) :
    u8Steps s.u8State (u8Fed i) = some t.u8State := by
  cases i with
  | u8Clear | u8Load => cases hi
  | u8Feed8 byte =>
    obtain ⟨-, next, hstep, rfl⟩ := ueUpdate_eq_next (h := fun code => u8Step code byte) h
    exact u8Steps_cons hstep
  | nop | crcRead | crcCheck | crcTable | u8Status | u8Class | u8Trans =>
    obtain ⟨r, rfl⟩ := exec_onlyAnswers rfl s t h
    rfl
  | crcSeed | crcFeed8 | crcFeed32 =>
    obtain ⟨-, -, -, -, hue⟩ := exec_staysWithin _ s t h
    exact congrArg some (hue (by simp [engineOf])).1.symm

theorem startsU8Stream_iff : startsU8Stream i = true ↔ i = .u8Clear ∨ ∃ byte, i = .u8Load byte := by
  cases i <;> simp [startsU8Stream]

/-- No command that starts no stream leads out of error (41_utf8_dfa.md R151). -/
theorem exec_keeps_error (hi : startsU8Stream i = false) (hs : s.u8State = errorCode) (h : exec i s = .next t) :
    t.u8State = errorCode := by
  have hsteps := exec_u8State hi h
  rw [hs, u8Steps_error] at hsteps
  exact (Option.some.inj hsteps).symm

end Commands

/-- Settles O29: U8_CLEAR writes accept, FMT_N reserves the whole argument, and a command that starts no stream steps by the
bytes it feeds, which keeps error. -/
theorem u8ClearStartsAStream : Obligations.U8ClearStartsAStream := by
  unfold Obligations.U8ClearStartsAStream
  refine ⟨fun s hs => exec_u8Clear_ready hs, fun s arg rest hs hhost => step_commandWord_fmtN hs hhost rfl rfl rfl,
    fun i s t hs h ht => startsU8Stream_iff.1 ?_⟩
  by_contra hi
  exact ht (exec_keeps_error (Bool.eq_false_of_not_eq_true hi) hs h)

/-- Settles O30: the nine codes are the ones the check lets through, and the reserved bits are checked first. -/
theorem u8LoadRestoresALegalCode : Obligations.U8LoadRestoresALegalCode := by
  unfold Obligations.U8LoadRestoresALegalCode
  refine ⟨fun s byte hs hbyte => ?_, fun s arg rest hs hhost => ?_⟩
  · have hlegal := legalStateCode_byteOperand_iff (zext32 byte)
    rw [← byteOperand, byteOperand_zext32] at hlegal
    exact exec_u8Load_ready hs (hlegal.2 hbyte)
  · have hmask : arg &&& reservedMask .fmtB = 0#32 ↔ arg.extractLsb' 8 24 = 0#24 := and_highMask_eq_zero_iff arg 8
    rw [step_commandWord_ranged hs hhost rfl]
    exact if_congr (not_congr hmask) rfl (if_congr (legalStateCode_byteOperand_iff arg) rfl rfl)

/-- Settles O31: the step over the stored tables is the step over the ranges, and FMT_B reserves the bits above the byte. -/
theorem u8Feed8ConsumesOneByte : Obligations.U8Feed8ConsumesOneByte := by
  unfold Obligations.U8Feed8ConsumesOneByte
  exact ⟨fun s byte hs hc => exec_u8Feed8_ready hs (u8Step_eq_u8StepByRanges byte hc),
    fun s arg rest hs hhost => step_commandWord_fmtB hs hhost rfl rfl rfl⟩

/-- Settles O32: U8_STATUS only answers, and FMT_N reserves the whole argument. -/
theorem u8StatusAnswersTheStatusWord : Obligations.U8StatusAnswersTheStatusWord := by
  unfold Obligations.U8StatusAnswersTheStatusWord
  exact ⟨fun s hs => exec_u8Status_ready hs, fun s arg rest hs hhost => step_commandWord_fmtN hs hhost rfl rfl rfl⟩

/-- Settles O33: the stored class is the one whose ranges hold the byte, and FMT_I reserves the bits above the index. -/
theorem u8ClassReadsBackOneEntry : Obligations.U8ClassReadsBackOneEntry := by
  unfold Obligations.U8ClassReadsBackOneEntry
  refine ⟨fun s idx hs => ?_, fun s arg rest hs hhost => ?_⟩
  · obtain ⟨-, hanswers⟩ := u8Class_alwaysAnswers idx
    exact ⟨u8ClassT idx, storedClassTableIsThePartition idx, hanswers s hs⟩
  · rw [step_commandWord hs hhost rfl rfl]
    exact if_congr (reservedMask_fmtI_clear_iff arg) rfl rfl

/-- Settles O34: the stored entry is the constructed one of its row and column, and the reserved bits are checked before the
index. -/
theorem u8TransReadsBackOneEntry : Obligations.U8TransReadsBackOneEntry := by
  unfold Obligations.U8TransReadsBackOneEntry
  refine ⟨fun s idx hs hidx => ?_, fun s arg rest hs hhost => ?_⟩
  · have hentry := u8TransT_row (idx.toNat / 11) (by omega) (idx.toNat % 11) (by omega)
    rw [Nat.div_add_mod, Nat.mul_comm] at hentry
    obtain ⟨-, hanswers⟩ := u8Trans_alwaysAnswers hentry
    exact hanswers s hs
  · rw [step_commandWord_ranged hs hhost rfl]
    exact if_congr (not_congr (reservedMask_fmtI_clear_iff arg)) rfl
      (if_congr (transIndexInRange_idxOperand_iff arg) rfl rfl)

section Streams

variable {commands : List Instr} {s t : State}

theorem execAll_u8State (hcommands : ∀ i ∈ commands, startsU8Stream i = false)
    (h : execAll commands s = .next t) : u8Steps s.u8State (commands.flatMap u8Fed) = some t.u8State := by
  induction commands generalizing s with
  | nil => cases h; rfl
  | cons i rest ih =>
    obtain ⟨hi, hrest⟩ := List.forall_mem_cons.1 hcommands
    obtain ⟨u, hexec, hrun⟩ := execAll_cons_eq_next h
    rw [List.flatMap_cons, u8Steps_append, exec_u8State hi hexec, Option.bind_some, ih hrest hrun]

/-- A run that ends with a byte feed has the status word as its last response (41_utf8_dfa.md R153). -/
theorem getLast?_responses_of_u8Feed8 {byte : Byte} (hlast : commands.getLast? = some (.u8Feed8 byte))
    (h : execAll commands s = .next t) : t.responses.getLast? = some ⟨true, statusWord t.u8State⟩ := by
  obtain ⟨init, rfl⟩ := List.getLast?_eq_some_iff.1 hlast
  obtain ⟨u, -, hfeed⟩ := execAll_append_eq_next h
  obtain ⟨v, hv, hdone⟩ := execAll_cons_eq_next hfeed
  cases hdone
  obtain ⟨-, next, -, rfl⟩ := ueUpdate_eq_next (h := fun code => u8Step code byte) hv
  exact List.getLast?_concat

/-- The port runs a stream: one command, the commands between, and one command at the end (30_encoding.md R60). -/
theorem runSteps_stream {first last : Instr} {a u : State}
    (hwf : first.wellFormed = true ∧ last.wellFormed = true ∧ ∀ i ∈ commands, i.wellFormed = true)
    (hfirst : exec first s = .next a) (hcommands : execAll commands a = .next u) (hlast : exec last u = .next t) :
    runSteps (commands.length + 2) (s.issue (first :: (commands ++ [last]))) = .next t := by
  obtain ⟨hwfFirst, hwfLast, hwfCommands⟩ := hwf
  have hrun : execAll (first :: (commands ++ [last])) s = .next t :=
    (execAll_next hfirst).trans ((execAll_append hcommands).trans (execAll_next hlast))
  have hport := runSteps_issue (by simpa [hwfFirst, or_imp, forall_and, hwfLast] using hwfCommands) hrun
  rwa [List.length_cons, List.length_append] at hport

/-- VALID is the strict validator of the bytes that led to the code (41_utf8_dfa.md R160). -/
theorem validFlag_eq_isValidUtf8 {d : List Byte} {code : Byte} (h : u8Steps acceptCode d = some code) :
    validFlag code = isValidUtf8 d := by
  rw [Bool.eq_iff_iff, isValidUtf8_iff_u8Steps, h, validFlag, decide_eq_true_iff, Option.some_inj]

/-- PREFIX_OK is the lenient validator of the bytes that led to the code (41_utf8_dfa.md R160). -/
theorem prefixOkFlag_eq_isValidUtf8Prefix {d : List Byte} {code : Byte} (h : u8Steps acceptCode d = some code) :
    prefixOkFlag code = isValidUtf8Prefix d := by
  rw [Bool.eq_iff_iff, isValidUtf8Prefix_iff_u8Steps_ne_error, h, prefixOkFlag, decide_eq_true_iff, ne_eq, ne_eq,
    Option.some_inj]

end Streams

/-- Settles O58: the commands between U8_CLEAR and U8_STATUS step accept by the bytes they feed, and the status word holds
the code that leads to and its two flags. -/
theorem utf8StreamComputesTheReference : Obligations.Utf8StreamComputesTheReference := by
  unfold Obligations.Utf8StreamComputesTheReference
  refine ⟨fun s commands hs hcommands => ?_, fun a b ha => ?_⟩
  · obtain ⟨u, hu, hready, -⟩ := execAll_keepsRunning commands
      ((s.writeU8 acceptCode).respond true (statusWord acceptCode)) hs (show legalStateCode acceptCode = true by decide)
    have hport := runSteps_stream ⟨rfl, rfl, fun i hi => (hcommands i hi).1⟩ (exec_u8Clear_ready hs) hu
      (exec_u8Status_ready hready)
    have hcode : u8Steps acceptCode (commands.flatMap u8Fed) = some u.u8State :=
      execAll_u8State (fun i hi => (hcommands i hi).2) hu
    have hhost : u.host = s.host := (execAll_keeps_host hu :)
    refine ⟨_, statusWord u.u8State, hport, hhost, List.getLast?_concat, ?_⟩
    rw [statusWord_stateField, statusWord_validBit, statusWord_prefixOkBit]
    refine ⟨hcode, rfl, validFlag_eq_isValidUtf8 hcode, prefixOkFlag_eq_isValidUtf8Prefix hcode, fun b hb => ?_⟩
    rw [State.respond_responses, List.dropLast_concat]
    exact getLast?_responses_of_u8Feed8 hb hu
  · rw [u8Steps_append, ha]
    exact u8Steps_error b

end Sys2Proof.Machine

/-! NOP, the command addressed to neither engine: what it answers and how each command word with its opcode is decoded
(42_misc.md R180). -/

namespace Sys2Proof.Machine

/-- NOP answers 0 and changes nothing else (42_misc.md R180). -/
theorem exec_nop_ready {s : State} (hs : s.phase = .ready) : exec .nop s = .next (s.respond true 0#32) :=
  onceReset_ready hs

/-- Settles O22: NOP only answers, and FMT_N reserves the whole argument. -/
theorem nopAnswersZero : Obligations.NopAnswersZero := by
  unfold Obligations.NopAnswersZero
  exact ⟨fun s hs => exec_nop_ready hs, fun s arg rest hs hhost => step_commandWord_fmtN hs hhost rfl rfl rfl⟩

end Sys2Proof.Machine

/-! The exception: what an illegal word does (60_exceptions.md R201, R202), and that the host's next action goes on as if
it had not been issued (R206). -/

namespace Sys2Proof.Machine

section IllegalWord

variable {s : State} {w : CommandWord} {cause : IllegalCause} {rest : List HostAction}

/-- An illegal word is taken from the host's actions and answered with its cause; no register changes (60_exceptions.md
R201). -/
theorem step_illegal_ready (hs : s.phase = .ready) (hhost : s.host = .command w :: rest)
    (hd : decode w = .error cause) :
    step s = .next (s.afterCommand rest s.crcState s.u8State ⟨false, causeCode cause⟩) :=
  (step_illegal hhost hd).trans (raiseIllegal_ready hs)

end IllegalWord

/-- Settles O6: each clause is the condition under which the decoder answers that cause. -/
theorem illegalCommandReportsItsCause : Obligations.IllegalCommandReportsItsCause := by
  unfold Obligations.IllegalCommandReportsItsCause
  intro s w rest hs hhost
  obtain ⟨hopcode, hreserved, hrange, -⟩ := decodeFollowsTheLegalityConditions w
  exact ⟨fun ho => step_illegal_ready hs hhost (hopcode.2 ho),
    fun ho hr => step_illegal_ready hs hhost (hreserved.2 ⟨ho, hr⟩),
    fun ho hr hx => step_illegal_ready hs hhost (hrange.2 ⟨ho, hr, hx⟩)⟩

section EarlierResponses

variable {i : Instr} {s t : State} {r : Fault}

/-- Only U8_FEED8 can stop once the block has been reset: the other commands read no table at an index that may be
undefined (20_memory.md R41). -/
theorem exec_completes (hi : ∀ byte, i ≠ .u8Feed8 byte) (hs : s.phase = .ready) : ∃ t, exec i s = .next t := by
  cases i with
  | nop => exact ⟨_, exec_nop_ready hs⟩
  | crcSeed => exact ⟨_, exec_crcSeed_ready hs⟩
  | crcFeed8 => exact ⟨_, exec_crcFeed8_ready hs⟩
  | crcFeed32 => exact ⟨_, exec_crcFeed32_ready hs⟩
  | crcRead => exact ⟨_, exec_crcRead_ready hs⟩
  | crcCheck => exact ⟨_, exec_crcCheck_ready hs⟩
  | crcTable byte => exact ⟨_, (crcTable_alwaysAnswers byte).2 s hs⟩
  | u8Clear => exact ⟨_, exec_u8Clear_ready hs⟩
  | u8Load byte =>
    simp only [exec, execU8Load]
    split
    · exact ⟨_, ueUpdate_ready hs rfl⟩
    · exact ⟨_, raiseIllegal_ready hs⟩
  | u8Feed8 byte => exact absurd rfl (hi byte)
  | u8Status => exact ⟨_, exec_u8Status_ready hs⟩
  | u8Class idx => exact ⟨_, (u8Class_alwaysAnswers idx).2 s hs⟩
  | u8Trans idx =>
    simp only [exec, execU8Trans]
    split
    · exact ⟨_, ueAnswer_ready hs⟩
    · exact ⟨_, raiseIllegal_ready hs⟩

/-- The one fault of a ready block: a byte fed to a code whose transition is not defined (20_memory.md R41). -/
theorem exec_eq_fault (hs : s.phase = .ready) (h : exec i s = .fault r) :
    ∃ byte, i = .u8Feed8 byte ∧ u8Step s.u8State byte = none ∧ r = .tableIndexUndefined := by
  by_cases hi : ∃ byte, i = .u8Feed8 byte
  · obtain ⟨byte, rfl⟩ := hi
    cases hstep : u8Step s.u8State byte with
    | some next =>
      rw [exec_u8Feed8_ready hs hstep] at h
      cases h
    | none =>
      have hfault : exec (.u8Feed8 byte) s = .fault .tableIndexUndefined :=
        ueUpdate_undefined (h := fun code => u8Step code byte) hs hstep
      rw [hfault] at h
      cases h
      exact ⟨byte, rfl, hstep, rfl⟩
  · obtain ⟨t, ht⟩ := exec_completes (not_exists.1 hi) hs
    rw [ht] at h
    cases h

/-- The responses already given are no input of the step: with others in their place it adds the same new ones and
leaves the rest of the state the same. The host's actions are split under a name of their own, so that the goal keeps them as
`s.host`. -/
theorem step_ignoresEarlierResponses (h : step s = .next t) :
    ∃ new, t.responses = s.responses ++ new ∧
      ∀ earlier, step { s with responses := earlier } = .next { t with responses := earlier ++ new } := by
  obtain ⟨host, hhost⟩ : ∃ host, s.host = host := ⟨_, rfl⟩
  match host, hhost with
  | [], hhost =>
    rw [step_waiting hhost] at h
    cases h
    exact ⟨[], (List.append_nil _).symm, fun earlier => by rw [List.append_nil]; exact step_waiting hhost⟩
  | .reset :: rest, hhost =>
    rw [step_reset hhost] at h
    cases h
    exact ⟨[], (List.append_nil _).symm, fun earlier => by rw [List.append_nil]; exact step_reset hhost⟩
  | .command w :: rest, hhost =>
    cases hd : decode w with
    | ok i =>
      rw [step_legal hhost hd] at h
      obtain ⟨new, hnew, hagain⟩ := exec_ignoresHistory i _ t h
      obtain rfl : t.host = rest := exec_keeps_host h
      exact ⟨[new], hnew, fun earlier => Eq.trans (step_legal hhost hd) (hagain t.host earlier)⟩
    | error cause =>
      rw [step_illegal hhost hd] at h
      obtain ⟨new, hnew, hagain⟩ := raiseIllegal_ignoresHistory cause _ t h
      obtain ⟨-, rfl⟩ := raiseIllegal_eq_next h
      exact ⟨[new], hnew, fun earlier => Eq.trans (step_illegal hhost hd) (hagain rest earlier)⟩

/-- A step that stops a ready block stops with the same fault whatever responses were given before. -/
theorem step_fault_ignoresEarlierResponses (hs : s.phase = .ready) (h : step s = .fault r) (earlier : List Response) :
    step { s with responses := earlier } = .fault r := by
  obtain ⟨host, hhost⟩ : ∃ host, s.host = host := ⟨_, rfl⟩
  match host, hhost with
  | [], hhost => rw [step_waiting hhost] at h; cases h
  | .reset :: rest, hhost => rw [step_reset hhost] at h; cases h
  | .command w :: rest, hhost =>
    cases hd : decode w with
    | ok i =>
      rw [step_legal hhost hd] at h
      obtain ⟨byte, rfl, hstep, rfl⟩ := exec_eq_fault (s := { s with host := rest }) hs h
      exact Eq.trans (step_legal hhost hd) (ueUpdate_undefined (h := fun code => u8Step code byte) hs hstep)
    | error cause =>
      rw [step_illegal_ready hs hhost hd] at h
      cases h

end EarlierResponses

section NextAction

variable {s : State} {w : CommandWord} {cause : IllegalCause} {action : HostAction} {rest : List HostAction}

theorem runSteps_one (s : State) : runSteps 1 s = step s := by
  rw [runSteps_succ]
  cases step s <;> rfl

/-- Two steps from an illegal word are the one step on the action after it, with the word's response already given. -/
theorem runSteps_two_of_illegal (hs : s.phase = .ready) (hd : decode w = .error cause) :
    runSteps 2 { s with host := .command w :: action :: rest } =
      step { s with host := action :: rest, responses := s.responses ++ [⟨false, causeCode cause⟩] } :=
  Eq.trans (runSteps_next (step_illegal_ready hs rfl hd)) (runSteps_one _)

end NextAction

/-- Settles O7: the illegal word only adds its response, and the next step does not depend on the earlier responses. -/
theorem nextCommandUnaffectedByIllegalOne : Obligations.NextCommandUnaffectedByIllegalOne := by
  unfold Obligations.NextCommandUnaffectedByIllegalOne
  intro s w cause action rest hs hd
  rw [runSteps_two_of_illegal hs hd]
  refine ⟨fun t ht => ?_, fun r hr =>
    step_fault_ignoresEarlierResponses (s := { s with host := action :: rest }) hs hr _⟩
  obtain ⟨new, hnew, hagain⟩ := step_ignoresEarlierResponses ht
  exact ⟨new, hnew, hagain _⟩

end Sys2Proof.Machine

/-! Before and after the first reset: what a command does before it (70_reset_and_hazards.md R221), and the one observation
of a run that begins with it (R228). -/

namespace Sys2Proof.Machine

section BeforeReset

variable {s : State}

theorem raiseIllegal_beforeReset {cause : IllegalCause} (hs : s.phase = .beforeReset) :
    raiseIllegal cause s = .fault .commandBeforeReset :=
  onceReset_beforeReset hs

/-- No command has a meaning before the first reset: each asks whether the block has been reset before it does anything
(70_reset_and_hazards.md R221). U8_LOAD and U8_TRANS look at their operand first, and ask in either case. -/
theorem exec_beforeReset (i : Instr) (hs : s.phase = .beforeReset) : exec i s = .fault .commandBeforeReset := by
  cases i with
  | nop | crcSeed | crcFeed8 | crcFeed32 | crcRead | crcCheck | crcTable | u8Clear | u8Feed8 | u8Status | u8Class =>
    exact onceReset_beforeReset hs
  | u8Load byte =>
    simp only [exec, execU8Load]
    split
    · exact onceReset_beforeReset hs
    · exact raiseIllegal_beforeReset hs
  | u8Trans idx =>
    simp only [exec, execU8Trans]
    split
    · exact onceReset_beforeReset hs
    · exact raiseIllegal_beforeReset hs

/-- A word before the first reset stops the run, whether it decodes to a command or not. -/
theorem step_command_beforeReset {w : CommandWord} {rest : List HostAction} (hs : s.phase = .beforeReset)
    (hhost : s.host = .command w :: rest) : step s = .fault .commandBeforeReset := by
  cases hd : decode w with
  | ok i => exact (step_legal hhost hd).trans (exec_beforeReset i hs)
  | error cause => exact (step_illegal hhost hd).trans (raiseIllegal_beforeReset hs)

end BeforeReset

/-- Settles O3: a legal word runs its command and an illegal one raises the exception, and neither happens before the first
reset. -/
theorem commandBeforeResetIsHostFault : Obligations.CommandBeforeResetIsHostFault := by
  unfold Obligations.CommandBeforeResetIsHostFault
  exact ⟨fun _ _ _ hs hhost => step_command_beforeReset hs hhost, fun _ i hs => exec_beforeReset i hs⟩

section Observation

/-- The reset signal writes both registers, so the run after it does not depend on their power-on contents
(10_state.md R28, R30). -/
theorem runSteps_powerOn_reset (n : Nat) (crc : Word) (code : Byte) (rest : List HostAction) :
    runSteps (n + 1) (State.powerOn crc code (.reset :: rest)) = runSteps n { State.reset with host := rest } :=
  runSteps_next (step_reset rfl)

/-- The observation is that of the run of the words from the reset state. -/
theorem observeRun_eq_some {words : List CommandWord} {t : State}
    (h : runSteps words.length { State.reset with host := words.map HostAction.command } = .next t)
    (crc : Word) (code : Byte) : observeRun crc code words = some (t.responses, t.crcState, t.u8State) := by
  rw [observeRun, runSteps_powerOn_reset, h]

theorem commandCount_map_command (words : List CommandWord) :
    commandCount (words.map HostAction.command) = words.length := by
  induction words with
  | nil => rfl
  | cons w words ih => rw [List.map_cons, commandCount, ih, List.length_cons]

/-- From the reset state the words run to their end, each with one response, and leave a legal code. -/
theorem runSteps_words (words : List CommandWord) :
    ∃ t, runSteps words.length { State.reset with host := words.map HostAction.command } = .next t ∧
      t.responses.length = words.length ∧ legalStateCode t.u8State = true := by
  have hlegal : legalStateCode State.reset.u8State = true := legalStateCode_applyReset State.reset
  obtain ⟨t, hrun, -, ht⟩ :=
    runSteps_keepsRunning words.length { State.reset with host := words.map HostAction.command } rfl hlegal
  obtain ⟨u, new, hanswers, -, hresponses, hcount⟩ :=
    AnswersAllActions.of_ready (s := { State.reset with host := words.map HostAction.command }) rfl hlegal
  rw [List.length_map, hrun] at hanswers
  cases hanswers
  have hnew : t.responses = new := hresponses
  exact ⟨t, hrun, by rw [hnew, hcount, commandCount_map_command], ht⟩

end Observation

/-- Settles O9: after the reset the run is that of the words from the reset state, which completes. -/
theorem everyRunHasOneObservation : Obligations.EveryRunHasOneObservation := by
  unfold Obligations.EveryRunHasOneObservation
  intro words
  obtain ⟨t, hrun, hlength, hlegal⟩ := runSteps_words words
  exact ⟨t.responses, t.crcState, t.u8State, observeRun_eq_some hrun, hlength, hlegal⟩

end Sys2Proof.Machine

/-! Decode and encode as inverses of each other, and the operands no legal word spells (30_encoding.md R62-R66). -/

namespace Sys2Proof.Machine

/-- Settles O12: the row of the command's opcode rebuilds the command from its argument. -/
theorem decodeOfEncodeIsTheCommand : Obligations.DecodeOfEncodeIsTheCommand := by
  unfold Obligations.DecodeOfEncodeIsTheCommand
  exact fun _ => decode_encode

section RowBuilds

variable {w : CommandWord} {i : Instr} {arg : Word}

/-- A word with no bit at or above `n` set is the zero-extension of its low `n` bits. -/
theorem zext32_lowBits {n : Nat} (h : arg &&& (BitVec.allOnes 32 <<< n) = 0#32) :
    zext32 (arg.extractLsb' 0 n) = arg := by
  apply BitVec.eq_of_getLsbD_eq
  intro k hk
  by_cases hlow : k < n
  · simp [zext32, hk, hlow]
  · have hbit := congrArg (fun v => v.getLsbD (k - n)) ((and_highMask_eq_zero_iff arg n).1 h)
    have hin : k - n < 32 - n := by omega
    have hclear : arg.getLsbD k = false := by simpa [hin, Nat.add_sub_cancel' (Nat.le_of_not_lt hlow)] using hbit
    simp [zext32, hlow, hclear]

theorem zext32_byteOperand (h : arg &&& reservedMask .fmtB = 0#32) : zext32 (byteOperand arg) = arg :=
  zext32_lowBits (n := 8) h

theorem zext32_idxOperand (h : arg &&& reservedMask .fmtI = 0#32) : zext32 (idxOperand arg) = arg :=
  zext32_lowBits (n := 7) h

theorem opcodeOf_build : ∀ row ∈ opcodeTable, ∀ arg, opcodeOf (row.build arg) = row.op := by
  simp [opcodeTable, opcodeOf]

theorem wellFormed_build : ∀ row ∈ opcodeTable, ∀ arg, (row.build arg).wellFormed = row.legal arg := by
  simp [opcodeTable, Instr.wellFormed]

/-- With no reserved bit set, the argument is the operand's zero-extension, or 0 in FMT_N. -/
theorem argOf_build : ∀ row ∈ opcodeTable, ∀ arg, arg &&& reservedMask row.format = 0#32 →
    argOf (row.build arg) = arg := by
  have hN : ∀ arg : Word, arg &&& reservedMask .fmtN = 0#32 → 0#32 = arg := by
    intro arg h
    exact h.symm.trans BitVec.and_allOnes
  have hW : ∀ arg : Word, arg &&& reservedMask .fmtW = 0#32 → arg = arg := fun _ _ => rfl
  have hB := @zext32_byteOperand
  have hI := @zext32_idxOperand
  simp only [opcodeTable, List.forall_mem_cons]
  exact ⟨hN, hW, @hB, hW, hN, hN, @hB, hN, @hB, @hB, hN, @hI, @hI, List.forall_mem_nil _⟩

/-- A row's command encodes to the row's opcode and the argument it was built from. -/
theorem encode_build {row : OpcodeRow} (hrow : row ∈ opcodeTable) (hmask : arg &&& reservedMask row.format = 0#32) :
    encode (row.build arg) = commandWord row.op arg := by
  rw [encode, opcodeOf_build row hrow, argOf_build row hrow arg hmask]

/-- What a legal word has passed: an assigned opcode, no reserved bit, and the row's check. -/
theorem decode_eq_ok (h : decode w = .ok i) :
    ∃ row, rowOf (opcodeField w) = some row ∧ argField w &&& reservedMask row.format = 0#32 ∧
      row.legal (argField w) = true ∧ row.build (argField w) = i := by
  unfold decode at h
  split at h
  next => cases h
  next row hrow =>
    split_ifs at h with hmask hlegal
    cases h
    exact ⟨row, hrow, hmask, hlegal, rfl⟩

end RowBuilds

/-- Settles O13: the row that decoded the word gives back the word's two fields. -/
theorem encodeOfDecodeIsTheWord : Obligations.EncodeOfDecodeIsTheWord := by
  unfold Obligations.EncodeOfDecodeIsTheWord
  intro w i h
  obtain ⟨row, hrow, hmask, hlegal, rfl⟩ := decode_eq_ok h
  obtain ⟨hmem, hop⟩ := rowOf_eq_some hrow
  constructor
  · rw [encode_build hmem hmask, hop, commandWord_fields]
  · exact (wellFormed_build row hmem _).trans hlegal

/-- Settles O10, by running the decoder on each word. -/
theorem writtenOutWordsDecode : Obligations.WrittenOutWordsDecode := by
  unfold Obligations.WrittenOutWordsDecode
  decide

/-- Settles O14, by running the assembler on each line. -/
theorem assemblerExamples : Obligations.AssemblerExamples := by
  unfold Obligations.AssemblerExamples
  decide

section IllFormedOperands

variable {i : Instr}

theorem decode_encode_illFormed (hi : i.wellFormed = false) : decode (encode i) = .error .illegalRange := by
  obtain ⟨row, hrow, hformat, hlegal, -⟩ := rowOf_opcodeOf i
  obtain ⟨hop, hreserved⟩ := encode_fields i
  rw [argField_encode] at hreserved
  simp only [decode, hop, hrow, hformat, argField_encode, hreserved, hlegal, hi, if_true, Bool.false_eq_true, if_false]

/-- Only U8_LOAD and U8_TRANS have operands no legal word spells, and both check theirs (log entry 7). -/
theorem exec_illFormed (hi : i.wellFormed = false) (s : State) : exec i s = raiseIllegal .illegalRange s := by
  cases i with
  | nop | crcSeed | crcFeed8 | crcFeed32 | crcRead | crcCheck | crcTable | u8Clear | u8Feed8 | u8Status | u8Class =>
    cases hi
  | u8Load byte =>
    have hbyte : legalStateCode byte = false := hi
    simp [exec, execU8Load, hbyte]
  | u8Trans idx =>
    have hidx : ¬ idx.toNat ≤ 87 := of_decide_eq_false hi
    simp only [exec, execU8Trans, u8TransT_eq_none (Nat.lt_of_not_le hidx)]

end IllFormedOperands

/-- Settles O35: the meaning raises cause 3, as the decoder does on the command's word. -/
theorem illFormedOperandAnswersCauseThree : Obligations.IllFormedOperandAnswersCauseThree := by
  unfold Obligations.IllFormedOperandAnswersCauseThree
  exact fun s _ hs hi => ⟨(exec_illFormed hi s).trans (raiseIllegal_ready hs), decode_encode_illFormed hi⟩

end Sys2Proof.Machine

/-! What the port does next and how far a run goes: waiting, one command, power-on contents, and the host that keeps the
duty of 70_reset_and_hazards.md R221. -/

namespace Sys2Proof.Machine

/-- Settles O2: it is the waiting case of the step. -/
theorem blockWaitsForTheHost : Obligations.BlockWaitsForTheHost := by
  unfold Obligations.BlockWaitsForTheHost
  exact fun _ => step_waiting

/-- Settles O5: it is the step's case of a legal word. -/
theorem stepRunsTheDecodedCommand : Obligations.StepRunsTheDecodedCommand := by
  unfold Obligations.StepRunsTheDecodedCommand
  exact fun _ _ _ _ => step_legal

/-- Settles O15: reset writes the code of accept. -/
theorem resetStateHasLegalCode : Obligations.ResetStateHasLegalCode := by
  unfold Obligations.ResetStateHasLegalCode
  exact fun _ => legalStateCode_applyReset State.reset

section Runs

variable {s : State}

theorem runSteps_fault {r : Fault} (n : Nat) (h : step s = .fault r) : runSteps (n + 1) s = .fault r := by
  rw [runSteps_succ, h]

theorem runSteps_waiting (n : Nat) (h : s.host = []) : runSteps n s = .next s := by
  induction n with
  | zero => rfl
  | succ n ih => rw [runSteps_next (step_waiting h), ih]

end Runs

/-- Settles O4: a reset first overwrites the contents, and a command first stops the run whatever they are. -/
theorem powerOnContentsCannotBeObserved : Obligations.PowerOnContentsCannotBeObserved := by
  unfold Obligations.PowerOnContentsCannotBeObserved
  intro n crc crc' code code' action rest
  cases action with
  | reset => rw [runSteps_powerOn_reset, runSteps_powerOn_reset]
  | command w =>
    have hfault (v : Word) (c : Byte) :
        runSteps (n + 1) (State.powerOn v c (.command w :: rest)) = .fault .commandBeforeReset :=
      runSteps_fault n (step_command_beforeReset rfl rfl)
    rw [hfault, hfault]

/-- Settles O18: a ready block runs on by the invariant, an idle host leaves it waiting, and a reset first makes it ready in
accept. -/
theorem hostThatResetsFirstIsNeverStopped : Obligations.HostThatResetsFirstIsNeverStopped := by
  unfold Obligations.HostThatResetsFirstIsNeverStopped
  rintro n s hinv (hs | hidle | ⟨rest, hreset⟩)
  · obtain ⟨t, hrun, -, -⟩ := runSteps_keepsRunning n s hs (hinv hs)
    exact ⟨t, hrun⟩
  · exact ⟨s, runSteps_waiting n hidle⟩
  · cases n with
    | zero => exact ⟨s, rfl⟩
    | succ n =>
      rw [runSteps_next (step_reset hreset)]
      obtain ⟨t, hrun, -, -⟩ := runSteps_keepsRunning n _ rfl (legalStateCode_applyReset { s with host := rest })
      exact ⟨t, hrun⟩

end Sys2Proof.Machine
